-- ==== Sys2Proof/Word.lean ====
section
/-! DEFINITION. The word types of FASS (00_scope rule R11): a byte is 8 bits unsigned, a bus address 7 bits unsigned, and the controller's RAM is a list of cells in one canonical form. -/

namespace Sys2Proof

/-- A byte: 8 bits, unsigned (R11). -/
abbrev Byte := BitVec 8

/-- A bus address: 7 bits, unsigned (R11, R52). -/
abbrev BusAddress := BitVec 7

/-- The controller RAM: (address, byte) pairs, address = 128 * page + column, strictly rising.
An address that is not listed holds the unknown value of R14 (log entry 11). -/
abbrev Memory := List Host.Cell

end Sys2Proof
end

