-- ==== Sys2Proof/Config.lean ====
section
/-! DEFINITION. What an implementation fixes (the parameters of 00_scope rule R7) and the free values of the model. -/

namespace Sys2Proof

/-- A transport error value. `TERR` is opaque to the block (60_exceptions R231): the label only tells two
values apart, and nothing the block does looks at it. Which labels the transport's type `TERR` has is the
parameter `Params.terrCount` (log entry 7). -/
structure TErr where
  label : Nat
  deriving DecidableEq, Repr, Inhabited

/-- The transport's answer to one write (R56, R230). -/
inductive Answer where
  | ok
  | err (e : TErr)
  deriving DecidableEq, Repr, Inhabited

/-- The memory addressing modes of the controller (10_state R38). -/
inductive AddrMode where
  | horizontal
  | vertical
  | page
  deriving DecidableEq, Repr, Inhabited

/-- The shadow state of the controller (10_state R36 to R39); `none` is the unknown value of R14. -/
structure Shadow where
  page : Option (BitVec 3)
  col  : Option (BitVec 7)
  mode : Option AddrMode
  ram  : Memory
  deriving DecidableEq, Repr, Inhabited

/-- `RANGE_POLICY` (R7, R222): a range violation is a status, or a fault. -/
inductive RangePolicy where
  | report
  | fault
  deriving DecidableEq, Repr, Inhabited

/-- `WRAP_RULE` (R7, R192): where the pointer goes past column 127. -/
inductive WrapRule where
  | unknown
  | pageModeWrap
  deriving DecidableEq, Repr, Inhabited

/-- `OTHER_CMD_EFFECT` (R7, R195): an unrecognised COMMAND payload makes everything unknown, or has the
effect of a catalog from elsewhere, which is the free functions below (log entry 24). -/
inductive OtherCmdEffect where
  | unknown
  | supplied
  deriving DecidableEq, Repr, Inhabited

/-- `ADDR_MODE_PAGE_SEQ` (R7, R88) with the bound that every model must require of it (41_addressing R142, D12). -/
structure ModeSeq where
  bytes : List Byte
  fits  : bytes.length + 3 ≤ 128
  deriving DecidableEq, Repr

/-- `ARG_WIDTH` or `LEN_WIDTH` (R7): the bits of an unsigned field of a request. Eight or more hold the boundary
values 8 and 128 (D3) and 129 (D4), which must be representable (log entry 6). -/
structure FieldWidth where
  bits  : Nat
  holds : 8 ≤ bits
  deriving DecidableEq, Repr

/-- The parameters of R7 that are open; the defaults are `Sys2Proof.Machine.defaultParams`. -/
structure Params where
  rangePolicy        : RangePolicy
  pageSetKeepsColumn : Bool
  wrapRule           : WrapRule
  dataNeedsPageMode  : Bool
  otherCmdEffect     : OtherCmdEffect
  addrModePageSeq    : ModeSeq
  entireOnIgnoreRam  : Byte
  ctrlResetState     : Shadow
  /-- `TERR` (R7, R231, D21): how many error values the transport has, `none` for no bound; `some 0` is a
  transport that cannot fail (log entry 7) -/
  terrCount          : Option Nat
  /-- `ARG_WIDTH` (R7, D3): the bits of a page or column argument -/
  argWidth           : FieldWidth
  /-- `LEN_WIDTH` (R7, D4): the bits of a request's `plen` -/
  lenWidth           : FieldWidth
  deriving DecidableEq, Repr

/-- FREE VALUE. What the transport says at its `n`-th turn, once the answers listed in the state are used
up: an answer, or `none`, not answered yet (R56, R230, R232, U10 to U12; log entry 3). -/
opaque Config.freeAnswer : Nat → Option Answer

/-- FREE VALUE. The page an unrecognised COMMAND payload leaves under a supplied catalog (R195). -/
opaque Config.otherCmdPage : List Byte → Shadow → Option (BitVec 3)

/-- FREE VALUE. The column an unrecognised COMMAND payload leaves under a supplied catalog (R195). -/
opaque Config.otherCmdCol : List Byte → Shadow → Option (BitVec 7)

/-- FREE VALUE. The mode an unrecognised COMMAND payload leaves under a supplied catalog (R195). -/
opaque Config.otherCmdMode : List Byte → Shadow → Option AddrMode

/-- FREE VALUE. The RAM cell at an address after an unrecognised COMMAND payload under a supplied catalog (R195). -/
opaque Config.otherCmdCell : List Byte → Shadow → Nat → Option Byte

end Sys2Proof
end

