-- ==== Sys2Proof/Machine/Catalog.lean ====
section
/-! DEFINITION. The constants of the block: the fixed rows of 00_scope rule R7, `INIT_SEQ` (30_encoding R91) and the defaults of the open parameters. -/

namespace Sys2Proof.Machine

/-- Largest payload of one transaction, the control byte not counted (R7). -/
def maxTransactionSize : Nat := 128

/-- Control byte of a COMMAND transaction (R7, R84). -/
def ctrlCommandByte : Byte := 0x00#8

/-- Control byte of a DATA transaction (R7, R84). -/
def ctrlDataByte : Byte := 0x40#8

/-- Default bus address (R7, R21). -/
def busAddrPrimary : BusAddress := 0x3C#7

/-- Alternative bus address (R7, R21). -/
def busAddrAlternate : BusAddress := 0x3D#7

/-- Number of pages (R7). -/
def pageCount : Nat := 8

/-- Number of columns (R7). -/
def columnCount : Nat := 128

/-- Opcode base of the page-start command (R7, R85). -/
def pageStartBase : Byte := 0xB0#8

/-- Opcode base of the lower column nibble command (R7, R86). -/
def colLowBase : Byte := 0x00#8

/-- Opcode base of the higher column nibble command (R7, R87). -/
def colHighBase : Byte := 0x10#8

/-- The byte of `display_on()` (R7, R89). -/
def entireOnResume : Byte := 0xA4#8

/-- The payload of `init()`: 13 commands, 19 bytes, in this order (R91). -/
def initSeq : List Byte :=
  [0xAE#8, 0xA8#8, 0x3F#8, 0xD3#8, 0x00#8, 0x40#8, 0xA0#8, 0xC0#8, 0xDA#8, 0x12#8,
   0x81#8, 0x7F#8, 0xA4#8, 0xA6#8, 0xD5#8, 0x80#8, 0x8D#8, 0x14#8, 0xAF#8]

/-- Everything unknown: the default of `CTRL_RESET_STATE` (R7, R42). -/
def unknownShadow : Shadow := { page := none, col := none, mode := none, ram := [] }

/-- The defaults of the open parameters (R7). PRESUMED (log entry 19): the bytes 0x20, 0x02 and 0xA5 are
general knowledge. -/
def defaultParams : Params :=
  { rangePolicy := .report
    pageSetKeepsColumn := false
    wrapRule := .unknown
    dataNeedsPageMode := false
    otherCmdEffect := .unknown
    addrModePageSeq := { bytes := [0x20#8, 0x02#8], fits := by decide }
    entireOnIgnoreRam := 0xA5#8
    ctrlResetState := unknownShadow
    terrCount := none
    argWidth := { bits := 8, holds := by decide }
    lenWidth := { bits := 16, holds := by decide } }

end Sys2Proof.Machine
end

