-- ==== Sys2Proof/Syntax.lean ====
section
/-! DEFINITION. The instructions: one constructor per row of spec/opcode_table.json, in the table's order. -/

namespace Sys2Proof

/-- The fields of a SEND_COMMANDS or SEND_DATA request beside its operation code (30_encoding R80): `plen` is
the length of `payload`; `arg0` and `arg1` are ignored. Arguments are unsigned numbers, whose width is the
parameter `ARG_WIDTH` (R7); WellFormed bounds them by it. -/
structure SendArgs where
  arg0    : Nat
  arg1    : Nat
  payload : List Byte
  deriving DecidableEq, Repr, Inhabited

/-- The fields of any other request beside its operation code (R80): `plen` is ignored, whatever its value,
and no payload byte is read. -/
structure ReqArgs where
  arg0 : Nat
  arg1 : Nat
  plen : Nat
  deriving DecidableEq, Repr, Inhabited

/-- The four formats of the table (R101): a request, a control byte, a payload byte of a DATA frame, a
command of a COMMAND payload. -/
inductive Format where
  | req
  | ctrl
  | data
  | cmd
  deriving DecidableEq, Repr

/-- One constructor per row of the table. The first twelve are requests (R81, R96), two are control bytes
(R84), one is a DATA payload byte (R189), the rest are the commands of R90. -/
inductive Instr where
  | sendCommands (r : SendArgs)
  | sendData (r : SendArgs)
  | setPage (r : ReqArgs)
  | setColumn (r : ReqArgs)
  | setMemPageMode (r : ReqArgs)
  | init (r : ReqArgs)
  | clear (r : ReqArgs)
  | displayOn (r : ReqArgs)
  | displayOnIgnoreRam (r : ReqArgs)
  | reserved9 (r : ReqArgs)
  | reservedAB (low : BitVec 1) (r : ReqArgs)
  | reservedCF (low : BitVec 2) (r : ReqArgs)
  | ctrlCommand
  | ctrlData
  | dataByte (d : Byte)
  | cmdPageStart (p : BitVec 3)
  | cmdColLow (l : BitVec 4)
  | cmdColHigh (h : BitVec 3)
  | cmdEntireOnResume
  | cmdEntireOnIgnoreRam
  | cmdAddrModePage
  | cmdDisplayOff
  | cmdMuxRatio
  | cmdDisplayOffset
  | cmdStartLine0
  | cmdSegmentRemap0
  | cmdComScanNormal
  | cmdComPins
  | cmdContrast
  | cmdNormalDisplay
  | cmdClockDiv
  | cmdChargePump
  | cmdDisplayOnPanel
  deriving DecidableEq, Repr, Inhabited

/-- The format of each row (R101). -/
def Instr.format : Instr → Format
  | .sendCommands _ => .req
  | .sendData _ => .req
  | .setPage _ => .req
  | .setColumn _ => .req
  | .setMemPageMode _ => .req
  | .init _ => .req
  | .clear _ => .req
  | .displayOn _ => .req
  | .displayOnIgnoreRam _ => .req
  | .reserved9 _ => .req
  | .reservedAB _ _ => .req
  | .reservedCF _ _ => .req
  | .ctrlCommand => .ctrl
  | .ctrlData => .ctrl
  | .dataByte _ => .data
  | .cmdPageStart _ => .cmd
  | .cmdColLow _ => .cmd
  | .cmdColHigh _ => .cmd
  | .cmdEntireOnResume => .cmd
  | .cmdEntireOnIgnoreRam => .cmd
  | .cmdAddrModePage => .cmd
  | .cmdDisplayOff => .cmd
  | .cmdMuxRatio => .cmd
  | .cmdDisplayOffset => .cmd
  | .cmdStartLine0 => .cmd
  | .cmdSegmentRemap0 => .cmd
  | .cmdComScanNormal => .cmd
  | .cmdComPins => .cmd
  | .cmdContrast => .cmd
  | .cmdNormalDisplay => .cmd
  | .cmdClockDiv => .cmd
  | .cmdChargePump => .cmd
  | .cmdDisplayOnPanel => .cmd

/-- The unsigned fields of a request beside its operation code (R80), where the instruction is one. -/
def Instr.requestFields : Instr → Option ReqArgs
  | .sendCommands r => some { arg0 := r.arg0, arg1 := r.arg1, plen := r.payload.length }
  | .sendData r => some { arg0 := r.arg0, arg1 := r.arg1, plen := r.payload.length }
  | .setPage r => some r
  | .setColumn r => some r
  | .setMemPageMode r => some r
  | .init r => some r
  | .clear r => some r
  | .displayOn r => some r
  | .displayOnIgnoreRam r => some r
  | .reserved9 r => some r
  | .reservedAB _ r => some r
  | .reservedCF _ r => some r
  | .ctrlCommand => none
  | .ctrlData => none
  | .dataByte _ => none
  | .cmdPageStart _ => none
  | .cmdColLow _ => none
  | .cmdColHigh _ => none
  | .cmdEntireOnResume => none
  | .cmdEntireOnIgnoreRam => none
  | .cmdAddrModePage => none
  | .cmdDisplayOff => none
  | .cmdMuxRatio => none
  | .cmdDisplayOffset => none
  | .cmdStartLine0 => none
  | .cmdSegmentRemap0 => none
  | .cmdComScanNormal => none
  | .cmdComPins => none
  | .cmdContrast => none
  | .cmdNormalDisplay => none
  | .cmdClockDiv => none
  | .cmdChargePump => none
  | .cmdDisplayOnPanel => none

end Sys2Proof
end

