-- ==== Sys2Proof/Machine/State.lean ====
section
/-! DEFINITION. The state of FASS (10_state), plain data, and its value after reset. -/

namespace Sys2Proof.Machine

/-- `ADDR_SEL` (R21): which of the two bus addresses the block writes to. -/
inductive AddrSel where
  | primary
  | alternate
  deriving DecidableEq, Repr, Inhabited

/-- `PHASE` (R25). -/
inductive Phase where
  | idle
  | busy
  deriving DecidableEq, Repr, Inhabited

/-- `STATUS` (R27, R210); the codes are in Machine/Flags.lean. -/
inductive Status where
  | ok
  | bufferTooSmall
  | rangeViolation
  | transportError
  | illegalOp
  deriving DecidableEq, Repr, Inhabited

/-- One record of `LOG` (R35): the address, the bytes written, the transport's answer. -/
structure LogRecord where
  addr   : BusAddress
  bytes  : List Byte
  answer : Answer
  deriving DecidableEq, Repr, Inhabited

/-- Where the controller is in the frame it is taking: between frames, or inside a payload of one kind,
which the control byte chose (R84, R98). -/
inductive RxMode where
  | between
  | command
  | data
  deriving DecidableEq, Repr, Inhabited

/-- The controller's reception of a frame given to it one instruction at a time (log entries 14, 15):
`low` is the low column nibble that waits for its high one (R144, R187). -/
structure Rx where
  mode : RxMode
  low  : Option (BitVec 4)
  deriving DecidableEq, Repr, Inhabited

/-- The state. Groups S, E and C are those of R20; the parameters are R7's and no step writes them; the
inputs are the model's own (log entries 2, 3, 14, 28, 34). -/
structure State where
  /-- the open parameters of R7 -/
  params   : Params
  /-- R21 -/
  addrSel  : AddrSel
  /-- R22 -/
  txbuf    : Vector Byte 129
  /-- R23 -/
  txlen    : BitVec 8
  /-- R24 -/
  op       : BitVec 4
  /-- R24; an unsigned number of `ARG_WIDTH` bits, which the invariant says -/
  arg0     : Nat
  /-- R24; an unsigned number of `ARG_WIDTH` bits, which the invariant says -/
  arg1     : Nat
  /-- R24; an unsigned number of `LEN_WIDTH` bits, which the invariant says -/
  plen     : Nat
  /-- R24: what of the request's payload stream is not read yet; an input stream, not storage, which is empty
  once its bytes are copied into `TXBUF` -/
  payload  : List Byte
  /-- R25 -/
  phase    : Phase
  /-- R26 -/
  seq      : BitVec 5
  /-- R27 -/
  status   : Status
  /-- `TERR_REG`, R27 -/
  terr     : TErr
  /-- R35 -/
  log      : List LogRecord
  /-- `PTR` and `RAM`, R36 to R39 -/
  shadow   : Shadow
  /-- input: bytes of the requests the host has presented -/
  hostIn   : List Byte
  /-- input: what the transport says at its next turns; `none` is not answered yet -/
  answers  : List (Option Answer)
  /-- input: how many turns the transport has had -/
  answerNo : Nat
  /-- input: bytes of a frame that the controller takes one instruction at a time -/
  bus      : List Byte
  /-- the controller's place in that frame -/
  rx       : Rx
  /-- input: a construction that is asked for, with its `cfg_addr_sel` (R250, R253) -/
  resetIn  : Option AddrSel
  deriving DecidableEq, Repr

/-- Why the machine stops with a fault. -/
inductive Fault where
  /-- Raised by a request whose page or column is out of range under `RANGE_POLICY = fault` (R222): the run
  has gone wrong. Safe: it is the spec's own fault, and nothing is claimed after it. -/
  | rangeViolation
  deriving DecidableEq, Repr

/-- Why the machine refuses. -/
inductive Refusal where
  /-- Raised by an arm of `exec` whose instruction has no meaning in the model. Safe. -/
  | notModelled (mnemonic : String)
  /-- Raised by a request executed while `PHASE = BUSY` (R25, R236, U1: such a request has no step). Safe. -/
  | requestWhileBusy
  /-- Raised by a step that is asked to construct the block while `PHASE = BUSY` (R253, U18: refuse). Safe. -/
  | resetWhileBusy
  deriving DecidableEq, Repr

/-- The outcome of a step. -/
abbrev Out := Host.Outcome State Fault Refusal

/-- The block after construction with given parameters and `cfg_addr_sel` (R42, R250 to R252): the controller is
in `CTRL_RESET_STATE`, by default unknown (R7, D24). Registers the spec leaves unspecified hold the values of log
entry 8. -/
def State.resetWith (p : Params) (sel : AddrSel) : State :=
  { params := p
    addrSel := sel
    txbuf := Vector.replicate 129 0#8
    txlen := 0#8
    op := 0#4
    arg0 := 0
    arg1 := 0
    plen := 0
    payload := []
    phase := .idle
    seq := 0#5
    status := .ok
    terr := { label := 0 }
    log := []
    shadow := p.ctrlResetState
    hostIn := []
    answers := []
    answerNo := 0
    bus := []
    rx := { mode := .between, low := none }
    resetIn := none }

/-- The block after construction with the default parameters and `cfg_addr_sel = 0`, the default address (R250;
log entry 9). -/
def State.reset : State := State.resetWith defaultParams .primary

end Sys2Proof.Machine
end

