-- ==== Sys2Proof/Machine/Flags.lean ====
section
/-! DEFINITION. The block has no flags and no condition codes (10_state R32). What an operation leaves of its result is `STATUS` and `TERR_REG` (R27): the conditions, and the status and numeric code of each (60_exceptions R210). -/

namespace Sys2Proof.Machine

/-- The conditions that end an operation early (R16, R210). -/
inductive Condition where
  | bufferTooSmall
  | rangeViolation
  | transport (e : TErr)
  | illegalOp
  deriving DecidableEq, Repr

/-- The status of each condition (R210). -/
def conditionStatus : Condition → Status
  | .bufferTooSmall => .bufferTooSmall
  | .rangeViolation => .rangeViolation
  | .transport _ => .transportError
  | .illegalOp => .illegalOp

/-- The numeric code of each status, 3 bits; 5 to 7 are never produced (R27, R210). -/
def statusCode : Status → BitVec 3
  | .ok => 0#3
  | .bufferTooSmall => 1#3
  | .rangeViolation => 2#3
  | .transportError => 3#3
  | .illegalOp => 4#3

end Sys2Proof.Machine
end

