-- ==== Sys2Proof/Machine/Operands.lean ====
section
/-! DEFINITION. Operand checks and operand assembly (30_encoding R92 to R95). There are no other operand forms: no operation names a register (10_state R31). -/

namespace Sys2Proof.Machine

/-- What a request gives the latches beside its operation code (R24, R80): the payload stream is empty for
an operation that reads none. -/
structure Fields where
  arg0    : Nat
  arg1    : Nat
  plen    : Nat
  payload : List Byte
  deriving DecidableEq, Repr

/-- The fields of a request with a payload. -/
def sendFields (r : SendArgs) : Fields :=
  { arg0 := r.arg0, arg1 := r.arg1, plen := r.payload.length, payload := r.payload }

/-- The fields of a request without one: no payload byte is read (R80). -/
def reqFields (r : ReqArgs) : Fields := { arg0 := r.arg0, arg1 := r.arg1, plen := r.plen, payload := [] }

/-- The page check, on the whole argument, unsigned (R92, R143). -/
def pageInRange (page : Nat) : Bool := page < pageCount

/-- The column check, on the whole argument, unsigned (R93, R143). -/
def columnInRange (column : Nat) : Bool := column < columnCount

/-- The size check, on the whole length (R94). -/
def lengthFits (bytes : List Byte) : Bool := bytes.length ≤ maxTransactionSize

/-- The page-start command byte of a page in range (R85, R92). -/
def pageStartByte (page : Nat) : Byte := pageStartBase ||| BitVec.ofNat 8 page

/-- The lower column nibble command byte of a column in range (R86, R93). -/
def colLowByte (column : Nat) : Byte := colLowBase ||| (BitVec.ofNat 8 column &&& 0x0F#8)

/-- The higher column nibble command byte of a column in range (R87, R93). -/
def colHighByte (column : Nat) : Byte := colHighBase ||| ((BitVec.ofNat 8 column >>> 4) &&& 0x0F#8)

/-- The column pair, low nibble first (R58, R93). -/
def columnBytes (column : Nat) : List Byte := [colLowByte column, colHighByte column]

/-- The payload of page-mode setup: mode, page start, column pair (R142). -/
def pageModeBytes (p : Params) (page column : Nat) : List Byte :=
  p.addrModePageSeq.bytes ++ [pageStartByte page] ++ columnBytes column

/-- `n` bytes of 0x00 (R13). -/
def zeros (n : Nat) : List Byte := List.replicate n 0x00#8

/-! ### Command bytes read back by the controller (R183, R185) -/

/-- The page a page-start byte names: `b & 0xF8 = 0xB0`, `p = b & 0x07` (R182, R183). -/
def pageOfByte (b : Byte) : Option (BitVec 3) :=
  if b &&& 0xF8#8 = pageStartBase then some (b.extractLsb' 0 3) else none

/-- The column of a nibble pair: `(high << 4) | low` (R185). -/
def colOfNibbles (high : BitVec 3) (low : BitVec 4) : BitVec 7 := high ++ low

/-- The column a pair of nibble bytes names, low first (R182, R185). -/
def colOfPair (l h : Byte) : Option (BitVec 7) :=
  if l &&& 0xF0#8 = colLowBase ∧ h &&& 0xF8#8 = colHighBase then
    some (colOfNibbles (h.extractLsb' 0 3) (l.extractLsb' 0 4))
  else none

end Sys2Proof.Machine
end

