-- ==== Sys2Proof/Machine/Calls.lean ====
section
/-! DEFINITION. The underlying calls of each operation (30_encoding R100) and the frame each call writes (40_framing R120, 41_addressing R140 to R142). -/

namespace Sys2Proof.Machine

/-- One underlying call of an operation (R18, R165). -/
inductive Call where
  | sendCommands (bytes : List Byte)
  | sendData (bytes : List Byte)
  | setPage (page : Nat)
  | setColumn (column : Nat)
  | setMemPageMode (page column : Nat)
  deriving DecidableEq, Repr

/-- The size check and the frame `[control_byte] ++ payload` (R83, R120, R123): no frame exists for a
payload over 128 bytes. -/
def frameOf (ctrl : Byte) (bytes : List Byte) : Except Condition (List Byte) :=
  if lengthFits bytes then .ok (ctrl :: bytes) else .error .bufferTooSmall

/-- The frame of a call, or the condition its checks raise: the page, then the column, then the size (R215). -/
def callFrame (p : Params) : Call → Except Condition (List Byte)
  | .sendCommands bytes => frameOf ctrlCommandByte bytes
  | .sendData bytes => frameOf ctrlDataByte bytes
  | .setPage page =>
    if pageInRange page then frameOf ctrlCommandByte [pageStartByte page] else .error .rangeViolation
  | .setColumn column =>
    if columnInRange column then frameOf ctrlCommandByte (columnBytes column) else .error .rangeViolation
  | .setMemPageMode page column =>
    if pageInRange page then
      if columnInRange column then frameOf ctrlCommandByte (pageModeBytes p page column)
      else .error .rangeViolation
    else .error .rangeViolation

/-- R121. -/
def sendCommandsCalls (r : SendArgs) : List Call := [.sendCommands r.payload]

/-- R122. -/
def sendDataCalls (r : SendArgs) : List Call := [.sendData r.payload]

/-- R140: `page` is `arg0`. -/
def setPageCalls (r : ReqArgs) : List Call := [.setPage r.arg0]

/-- R141: `column` is `arg0`. -/
def setColumnCalls (r : ReqArgs) : List Call := [.setColumn r.arg0]

/-- R142: `start_page` is `arg0`, `start_column` is `arg1`. -/
def setMemPageModeCalls (r : ReqArgs) : List Call := [.setMemPageMode r.arg0 r.arg1]

/-- R160. -/
def initCalls : List Call := [.sendCommands initSeq]

/-- One turn of the loop of `clear()` (R164). -/
def clearPageCalls (page : Nat) : List Call :=
  [.setPage page, .setColumn 0, .sendData (zeros maxTransactionSize)]

/-- The 26 calls of `clear()` (R164, R165). -/
def clearCalls : List Call :=
  (List.range pageCount).flatMap clearPageCalls ++ [.setPage 0, .setColumn 0]

/-- R167. -/
def displayOnCalls : List Call := [.sendCommands [entireOnResume]]

/-- R168. -/
def displayOnIgnoreRamCalls (p : Params) : List Call := [.sendCommands [p.entireOnIgnoreRam]]

/-- `TXBUF[0 .. TXLEN-1]` (R22, R120). -/
def builtFrame (s : State) : List Byte := s.txbuf.toList.take s.txlen.toNat

/-- The calls of the request in the latches (R24, R81). The payload of SEND_COMMANDS and SEND_DATA is not held
but as it was copied into `TXBUF` (R24). -/
def latchedCalls (s : State) : List Call :=
  let sent : SendArgs := { arg0 := s.arg0, arg1 := s.arg1, payload := (builtFrame s).tail }
  let r : ReqArgs := { arg0 := s.arg0, arg1 := s.arg1, plen := s.plen }
  if s.op = 0x0#4 then sendCommandsCalls sent
  else if s.op = 0x1#4 then sendDataCalls sent
  else if s.op = 0x2#4 then setPageCalls r
  else if s.op = 0x3#4 then setColumnCalls r
  else if s.op = 0x4#4 then setMemPageModeCalls r
  else if s.op = 0x5#4 then initCalls
  else if s.op = 0x6#4 then clearCalls
  else if s.op = 0x7#4 then displayOnCalls
  else if s.op = 0x8#4 then displayOnIgnoreRamCalls s.params
  else []

end Sys2Proof.Machine
end

