-- ==== Sys2Proof/Machine/Memory.lean ====
section
/-! DEFINITION. The controller RAM as a list of cells in canonical form (10_state R39, 20_memory R53; log entry 11): reading a cell, storing a byte, and making cells unknown. -/

namespace Sys2Proof.Machine

/-- The number of RAM cells, 8 pages of 128 columns (R53). -/
def ramSize : Nat := pageCount * columnCount

/-- The address of the cell `RAM[page][column]` (R53). -/
def cellAddr (page : BitVec 3) (col : Nat) : Nat := page.toNat * columnCount + col

/-- Addresses from `lo` on, strictly rising, all below `ramSize`. -/
def memWfFrom (lo : Nat) : Memory → Bool
  | [] => true
  | (a, _) :: m => decide (lo ≤ a) && decide (a < ramSize) && memWfFrom (a + 1) m

/-- The canonical form: addresses strictly rising, every address a cell of the RAM. -/
def Memory.wf (m : Memory) : Bool := memWfFrom 0 m

/-- The cell at an address: its byte, or unknown where the address is not listed (R14, R39). -/
def memRead (m : Memory) (a : Nat) : Option Byte :=
  match m with
  | [] => none
  | (b, v) :: rest => if a = b then some v else memRead rest a

/-- Store a byte, keeping the canonical form. -/
def memWrite (m : Memory) (a : Nat) (v : Byte) : Memory :=
  match m with
  | [] => [(a, v)]
  | (b, w) :: rest =>
    if a < b then (a, v) :: (b, w) :: rest
    else if a = b then (a, v) :: rest
    else (b, w) :: memWrite rest a v

/-- Make a cell unknown, keeping the canonical form. -/
def memForget (m : Memory) (a : Nat) : Memory := m.filter (fun cell => cell.1 ≠ a)

/-- Store bytes at rising addresses from `a` on (R189: byte `i` lands one column to the right of byte `i - 1`). -/
def memWriteRun (m : Memory) (a : Nat) : List Byte → Memory
  | [] => m
  | v :: vs => memWriteRun (memWrite m a v) (a + 1) vs

/-- Make the `n` cells from `a` on unknown (R190). -/
def memForgetRun (m : Memory) (a : Nat) : Nat → Memory
  | 0 => m
  | n + 1 => memForgetRun (memForget m a) (a + 1) n

/-- Store bytes on one page from column `c` on, the column modulo 128 (R192, `page_mode_wrap`). -/
def memWriteWrapped (m : Memory) (page : BitVec 3) (c : Nat) : List Byte → Memory
  | [] => m
  | v :: vs => memWriteWrapped (memWrite m (cellAddr page (c % columnCount)) v) page (c + 1) vs

/-- The RAM whose cells from `lo` on, `n` of them, are given by a function. -/
def memTabulate (f : Nat → Option Byte) (lo : Nat) : Nat → Memory
  | 0 => []
  | n + 1 =>
    match f lo with
    | some v => (lo, v) :: memTabulate f (lo + 1) n
    | none => memTabulate f (lo + 1) n

end Sys2Proof.Machine
end

