-- ==== Sys2Proof/Machine/Pointer.lean ====
section
/-! DEFINITION. The controller's shadow state machine (43_controller_pointer): the effect of each command, of DATA bytes, of a whole frame, and of a failed write. -/

namespace Sys2Proof.Machine

/-! ### Commands -/

/-- Page-start command (R183, R184). -/
def shadowPageStart (p : Params) (page : BitVec 3) (sh : Shadow) : Shadow :=
  { sh with page := some page, col := if p.pageSetKeepsColumn then sh.col else none }

/-- Column nibble pair (R185). -/
def shadowColumn (col : BitVec 7) (sh : Shadow) : Shadow := { sh with col := some col }

/-- Selection of PAGE addressing mode, the first step of R186. -/
def shadowPageMode (sh : Shadow) : Shadow := { sh with mode := some .page }

/-- One column nibble without its partner: the column is half-set (R187, U5). -/
def shadowHalfColumn (sh : Shadow) : Shadow := { sh with col := none }

/-- Everything unknown (R195). -/
def shadowForget : Shadow := unknownShadow

/-- A COMMAND payload that is not recognised, class K6 (R195, `OTHER_CMD_EFFECT`; log entry 24). -/
def shadowOther (p : Params) (c : List Byte) (sh : Shadow) : Shadow :=
  match p.otherCmdEffect with
  | .unknown => shadowForget
  | .supplied =>
    { page := Config.otherCmdPage c sh
      col := Config.otherCmdCol c sh
      mode := Config.otherCmdMode c sh
      ram := memTabulate (Config.otherCmdCell c sh) 0 ramSize }

/-- The classes of a COMMAND payload (R182). -/
inductive CmdClass where
  | k0
  | k1 (page : BitVec 3)
  | k2 (col : BitVec 7)
  | k3 (page : BitVec 3) (col : BitVec 7)
  | k4
  | k5
  | k6
  deriving DecidableEq, Repr

/-- What follows the mode bytes in class K3 (R182): a page-start byte and a column pair. -/
def pageModeTail : List Byte → Option (BitVec 3 × BitVec 7)
  | [b, l, h] =>
    match pageOfByte b, colOfPair l h with
    | some page, some col => some (page, col)
    | _, _ => none
  | _ => none

/-- Class K3: `ADDR_MODE_PAGE_SEQ ++ [b, l, h]` (R182). -/
def matchPageMode (p : Params) (c : List Byte) : Option (BitVec 3 × BitVec 7) :=
  if p.addrModePageSeq.bytes.isPrefixOf c then pageModeTail (c.drop p.addrModePageSeq.bytes.length) else none

/-- Class K1 (R182). -/
def matchPageStart : List Byte → Option (BitVec 3)
  | [b] => pageOfByte b
  | _ => none

/-- Class K2 (R182). -/
def matchColumn : List Byte → Option (BitVec 7)
  | [l, h] => colOfPair l h
  | _ => none

/-- The class of a COMMAND payload, matched as a whole, the first that matches (R182). -/
def classify (p : Params) (c : List Byte) : CmdClass :=
  if c.isEmpty then .k0
  else
    match matchPageStart c with
    | some page => .k1 page
    | none =>
      match matchColumn c with
      | some col => .k2 col
      | none =>
        match matchPageMode p c with
        | some (page, col) => .k3 page col
        | none =>
          if c = [entireOnResume] ∨ c = [p.entireOnIgnoreRam] then .k4
          else if c = initSeq then .k5
          else .k6

/-- `ApplyCommand` (R182): the effect of a COMMAND payload. -/
def applyCommand (p : Params) (c : List Byte) (sh : Shadow) : Shadow :=
  match classify p c with
  | .k0 => sh
  | .k1 page => shadowPageStart p page sh
  | .k2 col => shadowColumn col sh
  | .k3 page col => shadowColumn col (shadowPageStart p page (shadowPageMode sh))
  | .k4 => sh
  | .k5 => sh
  | .k6 => shadowOther p c sh

/-! ### DATA bytes -/

/-- DATA at a pointer that cannot be named (R191). -/
def shadowDataUnknown (sh : Shadow) : Shadow := { sh with page := none, col := none, ram := [] }

/-- Where the next DATA byte lands, if it can be named: the page and column are known and, with
`DATA_NEEDS_PAGE_MODE`, the mode is PAGE (R189, D31). -/
def landing (p : Params) (sh : Shadow) : Option (BitVec 3 × BitVec 7) :=
  match sh.page, sh.col with
  | some page, some col => if p.dataNeedsPageMode && sh.mode ≠ some .page then none else some (page, col)
  | _, _ => none

/-- `RowEnd` (R192): DATA that reaches or passes column 127. -/
def shadowRowEnd (p : Params) (page : BitVec 3) (c : Nat) (d : List Byte) (sh : Shadow) : Shadow :=
  if p.wrapRule = .pageModeWrap ∧ sh.mode = some .page then
    { sh with
      col := some (BitVec.ofNat 7 ((c + d.length) % columnCount))
      ram := memWriteWrapped sh.ram page c d }
  else
    { sh with
      page := none
      col := none
      ram := if c + d.length > columnCount then []
             else memWriteRun sh.ram (cellAddr page c) (d.take (columnCount - c)) }

/-- `ApplyData` (R189): the effect of a DATA payload. -/
def applyData (p : Params) (d : List Byte) (sh : Shadow) : Shadow :=
  if d.isEmpty then sh
  else
    match landing p sh with
    | none => shadowDataUnknown sh
    | some (page, col) =>
      if col.toNat + d.length < columnCount then
        { sh with
          col := some (BitVec.ofNat 7 (col.toNat + d.length))
          ram := memWriteRun sh.ram (cellAddr page col.toNat) d }
      else shadowRowEnd p page col.toNat d sh

/-! ### Frames -/

/-- `ShadowApply` (R181): the effect of a frame answered `Ok`. -/
def shadowApply (p : Params) (frame : List Byte) (sh : Shadow) : Shadow :=
  match frame with
  | [] => sh
  | b :: payload =>
    if b = ctrlCommandByte then applyCommand p payload sh
    else if b = ctrlDataByte then applyData p payload sh
    else sh

/-- What RAM is after a failed DATA write (R190 a, d; log entry 23). -/
def failedDataRam (p : Params) (d : List Byte) (sh : Shadow) : Memory :=
  if d.isEmpty then sh.ram
  else
    match landing p sh with
    | some (page, col) =>
      if col.toNat + d.length ≤ columnCount then memForgetRun sh.ram (cellAddr page col.toNat) d.length else []
    | none => []

/-- What RAM is after a failed COMMAND write (R190 b, c). -/
def failedCommandRam (p : Params) (c : List Byte) (sh : Shadow) : Memory :=
  if classify p c = .k6 then [] else sh.ram

/-- `ShadowFail` (R190): the effect of a frame answered `Err(e)`. -/
def shadowFail (p : Params) (frame : List Byte) (sh : Shadow) : Shadow :=
  { page := none
    col := none
    mode := none
    ram :=
      match frame with
      | [] => sh.ram
      | b :: payload =>
        if b = ctrlCommandByte then failedCommandRam p payload sh
        else if b = ctrlDataByte then failedDataRam p payload sh
        else sh.ram }

end Sys2Proof.Machine
end

