-- ==== Sys2Proof/Machine/Ops.lean ====
section
/-! DEFINITION. The shared operations of the block: the transaction buffer, the transport write, raising a condition, running an operation's calls, accepting a request, construction, and the controller taking a frame one instruction at a time. -/

namespace Sys2Proof.Machine

/-! ### The transaction buffer and the transport -/

/-- `BusAddr` (R21). -/
def busAddr : AddrSel → BusAddress
  | .primary => busAddrPrimary
  | .alternate => busAddrAlternate

/-- Write bytes to `TXBUF` at rising indices from `i` on, one byte per write (R51, R120). -/
def txFill (i : Nat) (bytes : List Byte) (buf : Vector Byte 129) : Vector Byte 129 :=
  match bytes with
  | [] => buf
  | b :: rest => txFill (i + 1) rest (buf.setIfInBounds i b)

/-- Build a frame in `TXBUF` and set `TXLEN` (R120). A request's payload stream has then been read, once and
in order, and nothing of it is held but the copy (R24, R54). -/
def buildFrame (frame : List Byte) (s : State) : State :=
  { s with txbuf := txFill 0 frame s.txbuf, txlen := BitVec.ofNat 8 frame.length, payload := [] }

/-- The error value is one of the transport's type `TERR` (R231; log entry 7). -/
def isTerr (p : Params) (e : TErr) : Bool :=
  match p.terrCount with
  | none => true
  | some n => e.label < n

/-- What the transport can say at a turn: an error it does not have is no answer (R231; log entry 7). -/
def turnOf (p : Params) (a : Option Answer) : Option Answer :=
  match a with
  | some (.err e) => if isTerr p e then some (.err e) else none
  | other => other

/-- The transport's next turn: the answer listed next, else a free one (R56; log entry 3). -/
def nextAnswer (s : State) : Option Answer :=
  match s.answers with
  | a :: _ => turnOf s.params a
  | [] => turnOf s.params (Config.freeAnswer s.answerNo)

/-- The turn is used up. -/
def useAnswer (s : State) : State :=
  { s with answers := s.answers.tail, answerNo := s.answerNo + 1 }

/-- `TransportWrite` of the built frame once it is answered (R56): one record in `LOG`, then the shadow state. -/
def recordWrite (a : Answer) (s : State) : State :=
  { s with
    log := s.log ++ [{ addr := busAddr s.addrSel, bytes := builtFrame s, answer := a }]
    shadow :=
      match a with
      | .ok => shadowApply s.params (builtFrame s) s.shadow
      | .err _ => shadowFail s.params (builtFrame s) s.shadow }

/-! ### Responses and conditions (R218) -/

/-- Return a response: `STATUS`, then `PHASE <- IDLE` (R82, R218). -/
def respond (st : Status) (s : State) : State := { s with status := st, phase := .idle }

/-- Raise a condition: the early return of R218, with `TERR_REG` written for a transport error only. -/
def raise (x : Condition) (s : State) : State :=
  match x with
  | .transport e => respond .transportError { s with terr := e }
  | .bufferTooSmall => respond .bufferTooSmall s
  | .rangeViolation => respond .rangeViolation s
  | .illegalOp => respond .illegalOp s

/-- End a request that fails its checks: `STATUS`, `PHASE` and `SEQ` and nothing else (R214, R219; log
entry 12), or the fault of `RANGE_POLICY = fault` (R222). -/
def reject (x : Condition) (s : State) : Out :=
  if x = .rangeViolation ∧ s.params.rangePolicy = .fault then .fault .rangeViolation
  else .next (raise x { s with seq := 0#5 })

/-! ### Running the calls of an operation (R120, R166) -/

/-- The transport's turn at the built frame: on `Ok` go on, on `Err(e)` end the operation with it (R120,
R166, R220); not answered yet, stay `BUSY` (R56, R232). -/
def settle (goOn : State → State) (s : State) : State :=
  match nextAnswer s with
  | none => useAnswer s
  | some .ok =>
    let t := recordWrite .ok (useAnswer s)
    goOn { t with seq := t.seq + 1#5 }
  | some (.err e) => raise (.transport e) (recordWrite (.err e) (useAnswer s))

/-- Make the calls in order, each frame built and written, and respond `Ok` after the last (R120, R164). -/
def runCalls : List Call → State → State
  | [], s => respond .ok s
  | c :: cs, s =>
    match callFrame s.params c with
    | .error x => raise x s
    | .ok frame => settle (runCalls cs) (buildFrame frame s)

/-- Load the request latches, `SEQ <- 0`, `PHASE <- BUSY` (R24, R80). -/
def accept (op : BitVec 4) (f : Fields) (s : State) : State :=
  { s with
    op := op
    arg0 := f.arg0
    arg1 := f.arg1
    plen := f.plen
    payload := f.payload
    seq := 0#5
    phase := .busy }

/-- A request whose underlying calls are `calls` (R25, R80, R100): none while `BUSY` (R236); the checks of
the first call come before everything (R123, R143); then the request is latched and the calls are made. -/
def request (op : BitVec 4) (f : Fields) (calls : List Call) (s : State) : Out :=
  match s.phase with
  | .busy => .refused .requestWhileBusy
  | .idle =>
    match calls with
    | [] => .next (runCalls [] (accept op f s))
    | c :: cs =>
      match callFrame s.params c with
      | .error x => reject x s
      | .ok frame => .next (settle (runCalls cs) (buildFrame frame (accept op f s)))

/-- A request with a reserved operation code (R96, R214). -/
def illegalRequest (s : State) : Out :=
  match s.phase with
  | .busy => .refused .requestWhileBusy
  | .idle => reject .illegalOp s

/-- The block `BUSY` with a write not answered yet: the transport's next turn, and on `Ok` the calls after
call number `SEQ + 1` (R26, R56, R232). -/
def resume (s : State) : State :=
  settle (runCalls ((latchedCalls s).drop (s.seq.toNat + 1))) s

/-! ### Construction (R250, R253) -/

/-- A new construction: sample `cfg_addr_sel`, go `IDLE`, and begin a lifetime with an empty `LOG` and an unknown
shadow state, whatever `CTRL_RESET_STATE` is; nothing else (R250, R252, R253; log entry 28). -/
def construct (sel : AddrSel) (s : State) : State :=
  { s with
    addrSel := sel
    phase := .idle
    log := []
    shadow := unknownShadow
    resetIn := none }

/-- A construction that is asked for: refused while `BUSY` (R253). -/
def constructStep (sel : AddrSel) (s : State) : Out :=
  match s.phase with
  | .busy => .refused .resetWhileBusy
  | .idle => .next (construct sel s)

/-! ### The controller takes a frame one instruction at a time (log entry 14) -/

/-- The controller between frames. -/
def rxBetween : Rx := { mode := .between, low := none }

/-- After an instruction of a payload: at the frame's last byte the controller is between frames, and a low
nibble that no high nibble followed at once is dropped (R144, R187). -/
def busDone (s : State) : State :=
  { s with rx := if s.bus.isEmpty then rxBetween else { s.rx with low := none } }

/-- One instruction of a payload: its effect on the shadow state. -/
def busEffect (f : Shadow → Shadow) (s : State) : State := busDone { s with shadow := f s.shadow }

/-- Bytes of a frame that are no instruction are taken as a whole. Where a control byte must stand, `ShadowApply`
gives them no effect (R181; log entry 33); in a COMMAND payload they are class K6 (R182, R195; log entry 18). -/
def busStray (s : State) : State :=
  { s with
    shadow := if s.rx.mode = .command then shadowOther s.params s.bus s.shadow else s.shadow
    bus := []
    rx := rxBetween }

/-- After a control byte: the payload that follows is of one kind (R84), or there is none. -/
def busBegin (m : RxMode) (s : State) : State :=
  { s with rx := if s.bus.isEmpty then rxBetween else { mode := m, low := none } }

end Sys2Proof.Machine
end

