-- ==== Sys2Proof/Machine/Addressing.lean ====
section
/-! DEFINITION. The addressing operations SET_PAGE, SET_COLUMN and SET_MEM_PAGE_MODE (41_addressing R140 to R142). -/

namespace Sys2Proof.Machine

/-- SET_PAGE (R140). -/
def execSetPage (r : ReqArgs) (s : State) : Out := request 0x2#4 (reqFields r) (setPageCalls r) s

/-- SET_COLUMN (R141). -/
def execSetColumn (r : ReqArgs) (s : State) : Out := request 0x3#4 (reqFields r) (setColumnCalls r) s

/-- SET_MEM_PAGE_MODE (R142). -/
def execSetMemPageMode (r : ReqArgs) (s : State) : Out := request 0x4#4 (reqFields r) (setMemPageModeCalls r) s

end Sys2Proof.Machine
end

