-- ==== Sys2Proof/Machine/Bus.lean ====
section
/-! DEFINITION. The control bytes and the DATA byte as the controller takes them (30_encoding R84, 43_controller_pointer R181, R182, R189; log entries 14 and 16). The instruction's own bytes have been taken from `bus`; what is left there is the rest of the frame. -/

namespace Sys2Proof.Machine

/-- CTRL_COMMAND (R84): the rest of the frame is a COMMAND payload. A payload of class K6 has its effect as a
whole and is not decoded further (R182, R195; log entry 16). -/
def execCtrlCommand (s : State) : Out :=
  match classify s.params s.bus with
  | .k6 => .next { s with shadow := shadowOther s.params s.bus s.shadow, bus := [], rx := rxBetween }
  | _ => .next (busBegin .command s)

/-- CTRL_DATA (R84): the rest of the frame is a DATA payload. -/
def execCtrlData (s : State) : Out := .next (busBegin .data s)

/-- DATA_BYTE (R189 with one byte, R191, R192). -/
def execDataByte (d : Byte) (s : State) : Out := .next (busEffect (applyData s.params [d]) s)

end Sys2Proof.Machine
end

