-- ==== Sys2Proof/Machine/Composed.lean ====
section
/-! DEFINITION. The composed operations INIT, CLEAR, DISPLAY_ON and DISPLAY_ON_IGNORE_RAM (42_composed), and the reserved operation codes (30_encoding R96). -/

namespace Sys2Proof.Machine

/-- INIT (R160). -/
def execInit (r : ReqArgs) (s : State) : Out := request 0x5#4 (reqFields r) initCalls s

/-- CLEAR (R164 to R166). -/
def execClear (r : ReqArgs) (s : State) : Out := request 0x6#4 (reqFields r) clearCalls s

/-- DISPLAY_ON (R167). -/
def execDisplayOn (r : ReqArgs) (s : State) : Out := request 0x7#4 (reqFields r) displayOnCalls s

/-- DISPLAY_ON_IGNORE_RAM (R168). -/
def execDisplayOnIgnoreRam (r : ReqArgs) (s : State) : Out :=
  request 0x8#4 (reqFields r) (displayOnIgnoreRamCalls s.params) s

/-- The reserved code 0x9 (R96, R214): every field is ignored. -/
def execReserved9 (s : State) : Out := illegalRequest s

/-- The reserved codes 0xA and 0xB (R96, R214): every field is ignored. -/
def execReservedAB (s : State) : Out := illegalRequest s

/-- The reserved codes 0xC to 0xF (R96, R214): every field is ignored. -/
def execReservedCF (s : State) : Out := illegalRequest s

end Sys2Proof.Machine
end

