-- ==== Sys2Proof/Machine/Framing.lean ====
section
/-! DEFINITION. The framing primitives SEND_COMMANDS and SEND_DATA (40_framing R121, R122). -/

namespace Sys2Proof.Machine

/-- SEND_COMMANDS (R121). -/
def execSendCommands (r : SendArgs) (s : State) : Out := request 0x0#4 (sendFields r) (sendCommandsCalls r) s

/-- SEND_DATA (R122). -/
def execSendData (r : SendArgs) (s : State) : Out := request 0x1#4 (sendFields r) (sendDataCalls r) s

end Sys2Proof.Machine
end

