-- ==== Sys2Proof/Machine/InitCommands.lean ====
section
/-! DEFINITION. The commands that the block emits only inside `INIT_SEQ` (30_encoding R91). None writes the pointer, the mode or RAM (43_controller_pointer R194); what they do to the panel is out of scope (00_scope R6 item 5). -/

namespace Sys2Proof.Machine

/-- CMD_DISPLAY_OFF (AE, display-off; R194): nothing of the shadow state changes. -/
def execCmdDisplayOff (s : State) : Out := .next (busDone s)

/-- CMD_MUX_RATIO (A8 3F, mux-ratio=64; R194): nothing of the shadow state changes. -/
def execCmdMuxRatio (s : State) : Out := .next (busDone s)

/-- CMD_DISPLAY_OFFSET (D3 00, offset=0; R194): nothing of the shadow state changes. -/
def execCmdDisplayOffset (s : State) : Out := .next (busDone s)

/-- CMD_START_LINE_0 (40, start-line=0; R194): nothing of the shadow state changes. -/
def execCmdStartLine0 (s : State) : Out := .next (busDone s)

/-- CMD_SEGMENT_REMAP_0 (A0, segment-remap-0; R194): nothing of the shadow state changes. -/
def execCmdSegmentRemap0 (s : State) : Out := .next (busDone s)

/-- CMD_COM_SCAN_NORMAL (C0, COM-scan-normal; R194): nothing of the shadow state changes. -/
def execCmdComScanNormal (s : State) : Out := .next (busDone s)

/-- CMD_COM_PINS (DA 12, COM-pins alt/no-remap; R194): nothing of the shadow state changes. -/
def execCmdComPins (s : State) : Out := .next (busDone s)

/-- CMD_CONTRAST (81 7F, contrast=mid; R194): nothing of the shadow state changes. -/
def execCmdContrast (s : State) : Out := .next (busDone s)

/-- CMD_NORMAL_DISPLAY (A6, normal-display-mode; R194): nothing of the shadow state changes. -/
def execCmdNormalDisplay (s : State) : Out := .next (busDone s)

/-- CMD_CLOCK_DIV (D5 80, clock-divide/osc=reset; R194): nothing of the shadow state changes. -/
def execCmdClockDiv (s : State) : Out := .next (busDone s)

/-- CMD_CHARGE_PUMP (8D 14, charge-pump-enable; R194): nothing of the shadow state changes. -/
def execCmdChargePump (s : State) : Out := .next (busDone s)

/-- CMD_DISPLAY_ON_PANEL (AF, display-on; R194): nothing of the shadow state changes. -/
def execCmdDisplayOnPanel (s : State) : Out := .next (busDone s)

end Sys2Proof.Machine
end

