-- ==== Sys2Proof/Machine/PointerCommands.lean ====
section
/-! DEFINITION. The commands of a COMMAND payload that move the pointer or select the mode, and the entire-on commands (43_controller_pointer R183 to R187, R193). -/

namespace Sys2Proof.Machine

/-- CMD_PAGE_START (R183). -/
def execCmdPageStart (p : BitVec 3) (s : State) : Out := .next (busEffect (shadowPageStart s.params p) s)

/-- CMD_COL_LOW (R185, R187): until its partner comes the column is half-set; the nibble is held for a
partner in the same frame (log entry 15). -/
def execCmdColLow (l : BitVec 4) (s : State) : Out :=
  .next { s with
    shadow := shadowHalfColumn s.shadow
    rx := if s.bus.isEmpty then rxBetween else { s.rx with low := some l } }

/-- CMD_COL_HIGH (R185): with the low nibble before it the column is set; alone it is half-set (R187). -/
def execCmdColHigh (h : BitVec 3) (s : State) : Out :=
  match s.rx.low with
  | some l => .next (busEffect (shadowColumn (colOfNibbles h l)) s)
  | none => .next (busEffect shadowHalfColumn s)

/-- CMD_ENTIRE_ON_RESUME (R193): nothing of the shadow state changes. -/
def execCmdEntireOnResume (s : State) : Out := .next (busDone s)

/-- CMD_ENTIRE_ON_IGNORE_RAM (R193): nothing of the shadow state changes. -/
def execCmdEntireOnIgnoreRam (s : State) : Out := .next (busDone s)

/-- CMD_ADDR_MODE_PAGE (R186): the mode becomes PAGE. -/
def execCmdAddrModePage (s : State) : Out := .next (busEffect shadowPageMode s)

end Sys2Proof.Machine
end

