-- ==== Sys2Proof/Machine/Dispatch.lean ====
section
/-! DEFINITION. One arm per instruction: its meaning. -/

namespace Sys2Proof.Machine

def exec (i : Instr) (s : State) : Host.Outcome State Fault Refusal :=
  match i with
  | .sendCommands r => Sys2Proof.Machine.execSendCommands r s
  | .sendData r => Sys2Proof.Machine.execSendData r s
  | .setPage r => Sys2Proof.Machine.execSetPage r s
  | .setColumn r => Sys2Proof.Machine.execSetColumn r s
  | .setMemPageMode r => Sys2Proof.Machine.execSetMemPageMode r s
  | .init r => Sys2Proof.Machine.execInit r s
  | .clear r => Sys2Proof.Machine.execClear r s
  | .displayOn r => Sys2Proof.Machine.execDisplayOn r s
  | .displayOnIgnoreRam r => Sys2Proof.Machine.execDisplayOnIgnoreRam r s
  | .reserved9 _ => Sys2Proof.Machine.execReserved9 s
  | .reservedAB _ _ => Sys2Proof.Machine.execReservedAB s
  | .reservedCF _ _ => Sys2Proof.Machine.execReservedCF s
  | .ctrlCommand => Sys2Proof.Machine.execCtrlCommand s
  | .ctrlData => Sys2Proof.Machine.execCtrlData s
  | .dataByte d => Sys2Proof.Machine.execDataByte d s
  | .cmdPageStart p => Sys2Proof.Machine.execCmdPageStart p s
  | .cmdColLow l => Sys2Proof.Machine.execCmdColLow l s
  | .cmdColHigh h => Sys2Proof.Machine.execCmdColHigh h s
  | .cmdEntireOnResume => Sys2Proof.Machine.execCmdEntireOnResume s
  | .cmdEntireOnIgnoreRam => Sys2Proof.Machine.execCmdEntireOnIgnoreRam s
  | .cmdAddrModePage => Sys2Proof.Machine.execCmdAddrModePage s
  | .cmdDisplayOff => Sys2Proof.Machine.execCmdDisplayOff s
  | .cmdMuxRatio => Sys2Proof.Machine.execCmdMuxRatio s
  | .cmdDisplayOffset => Sys2Proof.Machine.execCmdDisplayOffset s
  | .cmdStartLine0 => Sys2Proof.Machine.execCmdStartLine0 s
  | .cmdSegmentRemap0 => Sys2Proof.Machine.execCmdSegmentRemap0 s
  | .cmdComScanNormal => Sys2Proof.Machine.execCmdComScanNormal s
  | .cmdComPins => Sys2Proof.Machine.execCmdComPins s
  | .cmdContrast => Sys2Proof.Machine.execCmdContrast s
  | .cmdNormalDisplay => Sys2Proof.Machine.execCmdNormalDisplay s
  | .cmdClockDiv => Sys2Proof.Machine.execCmdClockDiv s
  | .cmdChargePump => Sys2Proof.Machine.execCmdChargePump s
  | .cmdDisplayOnPanel => Sys2Proof.Machine.execCmdDisplayOnPanel s

end Sys2Proof.Machine
end

