-- ==== Sys2Proof/WellFormed.lean ====
section
/-! DEFINITION. The static checks on an instruction: a request's arguments fit `ARG_WIDTH` bits, and its `plen`, the payload's length where there is one, fits `LEN_WIDTH` bits (00_scope R7, 30_encoding R80). Every other operand is in range by its type. -/

namespace Sys2Proof

/-- An unsigned field fits its width. -/
def FieldWidth.fits (w : FieldWidth) (v : Nat) : Bool := v < 2 ^ w.bits

/-- An instruction the encodings of the spec can carry under given parameters. -/
def Instr.wellFormed (p : Params) (i : Instr) : Bool :=
  match i.requestFields with
  | some r => p.argWidth.fits r.arg0 && p.argWidth.fits r.arg1 && p.lenWidth.fits r.plen
  | none => true

end Sys2Proof
end

