-- ==== Sys2Proof/Decode.lean ====
section
/-! DEFINITION. The decoder, total on any bytes, and the encoder, both written from 30_encoding rules R80 to R101 and spec/opcode_table.json. -/

namespace Sys2Proof

open Sys2Proof.Machine (ctrlCommandByte ctrlDataByte pageStartBase colLowBase colHighBase entireOnResume defaultParams)

/-- Why bytes are no instruction. -/
inductive DecodeError where
  /-- the bytes end before the instruction does -/
  | truncated
  /-- byte 0 of a frame is neither 0x00 nor 0x40 (R84) -/
  | notAControlByte (b : Byte)
  /-- no command row of the table matches (R90) -/
  | notACommand (b : Byte)
  deriving DecidableEq, Repr

/-! ### Requests (R80, R81) -/

/-- The operations of R81 that read no payload; 0x9 to 0xF are the reserved rows (R96). The codes 0x0 and 0x1
are not asked of it. -/
def requestOf (op : BitVec 4) (r : ReqArgs) : Instr :=
  if op = 0x2#4 then .setPage r
  else if op = 0x3#4 then .setColumn r
  else if op = 0x4#4 then .setMemPageMode r
  else if op = 0x5#4 then .init r
  else if op = 0x6#4 then .clear r
  else if op = 0x7#4 then .displayOn r
  else if op = 0x8#4 then .displayOnIgnoreRam r
  else if op = 0x9#4 then .reserved9 r
  else if op &&& 0xE#4 = 0xA#4 then .reservedAB (op.extractLsb' 0 1) r
  else .reservedCF (op.extractLsb' 0 2) r

/-- The bytes that hold a number of bits. -/
def byteCount (bits : Nat) : Nat := (bits + 7) / 8

/-- The number that bytes name, least significant byte first (log entry 5). -/
def ofBytes : List Byte → Nat
  | [] => 0
  | b :: rest => b.toNat + 256 * ofBytes rest

/-- The low `n` bytes of a number, least significant byte first (log entry 5). -/
def toBytes : Nat → Nat → List Byte
  | 0, _ => []
  | n + 1, v => BitVec.ofNat 8 v :: toBytes n (v / 256)

/-- The bits of the header: `op` and two arguments; 20 with the default `ARG_WIDTH` (R80). -/
def headerBits (p : Params) : Nat := 4 + 2 * p.argWidth.bits

/-- The bytes of the header on the port: three by default. -/
def headerBytes (p : Params) : Nat := byteCount (headerBits p)

/-- The bytes of `plen` on the port: two by default. -/
def plenBytes (p : Params) : Nat := byteCount p.lenWidth.bits

/-- The header word `H`: `op`, then `arg0`, then `arg1` in its low bits (R80). -/
def headerWord (p : Params) (op : BitVec 4) (arg0 arg1 : Nat) : Nat :=
  (op.toNat * 2 ^ p.argWidth.bits + arg0) * 2 ^ p.argWidth.bits + arg1

/-- `op`: `H[19:16]` with the default `ARG_WIDTH` (R80). What lies above it in the last header byte is no part
of the header and is ignored (log entry 5). -/
def opOf (p : Params) (h : Nat) : BitVec 4 := BitVec.ofNat 4 (h / 2 ^ p.argWidth.bits / 2 ^ p.argWidth.bits)

/-- `arg0`: `H[15:8]` with the default `ARG_WIDTH` (R80). -/
def arg0Of (p : Params) (h : Nat) : Nat := h / 2 ^ p.argWidth.bits % 2 ^ p.argWidth.bits

/-- `arg1`: `H[7:0]` with the default `ARG_WIDTH` (R80). -/
def arg1Of (p : Params) (h : Nat) : Nat := h % 2 ^ p.argWidth.bits

/-- A request that reads its payload: `plen` bytes follow (R80, R81). A payload that is not there whole is a
request that is not presented whole. -/
def decodeSend (make : SendArgs → Instr) (f : ReqArgs) (rest : List Byte) : Except DecodeError (Instr × List Byte) :=
  if rest.length < f.plen then .error .truncated
  else .ok (make { arg0 := f.arg0, arg1 := f.arg1, payload := rest.take f.plen }, rest.drop f.plen)

/-- A request once its fixed part is read: for SEND_COMMANDS and SEND_DATA only, payload bytes follow (R80, R81). -/
def decodeBody (op : BitVec 4) (f : ReqArgs) (rest : List Byte) : Except DecodeError (Instr × List Byte) :=
  if op = 0x0#4 then decodeSend .sendCommands f rest
  else if op = 0x1#4 then decodeSend .sendData f rest
  else .ok (requestOf op f, rest)

/-- A request: the header bytes, the `plen` bytes, and what `decodeBody` reads (R80; log entry 5). -/
def decodeRequest (p : Params) (bs : List Byte) : Except DecodeError (Instr × List Byte) :=
  if bs.length < headerBytes p + plenBytes p then .error .truncated
  else
    let h := ofBytes (bs.take (headerBytes p))
    let plen := ofBytes ((bs.drop (headerBytes p)).take (plenBytes p)) % 2 ^ p.lenWidth.bits
    decodeBody (opOf p h) { arg0 := arg0Of p h, arg1 := arg1Of p h, plen := plen }
      (bs.drop (headerBytes p + plenBytes p))

/-- Bytes with the bits of a request port that are part of no field set to 0: those of the last header byte above
the header (the upper four of the third byte by default), and those of the last `plen` byte above `LEN_WIDTH`
(log entry 5). Every bit of the bus is part of an instruction. -/
def portBits (p : Params) : Format → List Byte → List Byte
  | .req, bs =>
    toBytes (headerBytes p) (ofBytes (bs.take (headerBytes p)) % 2 ^ headerBits p) ++
      toBytes (plenBytes p) (ofBytes ((bs.drop (headerBytes p)).take (plenBytes p)) % 2 ^ p.lenWidth.bits) ++
      bs.drop (headerBytes p + plenBytes p)
  | _, bs => bs

/-! ### The controller's side of the bus (R84, R90) -/

/-- The control byte: exactly two values (R84). -/
def decodeControl : List Byte → Except DecodeError (Instr × List Byte)
  | [] => .error .truncated
  | b :: rest =>
    if b = ctrlCommandByte then .ok (.ctrlCommand, rest)
    else if b = ctrlDataByte then .ok (.ctrlData, rest)
    else .error (.notAControlByte b)

/-- A payload byte of a DATA frame: any value (R83, R128). -/
def decodeData : List Byte → Except DecodeError (Instr × List Byte)
  | [] => .error .truncated
  | b :: rest => .ok (.dataByte b, rest)

/-- The commands of `INIT_SEQ` with their parameter bytes (R91, R101), in the order of the table. -/
def fixedCommands : List (List Byte × Instr) :=
  [([0xAE#8], .cmdDisplayOff),
   ([0xA8#8, 0x3F#8], .cmdMuxRatio),
   ([0xD3#8, 0x00#8], .cmdDisplayOffset),
   ([0x40#8], .cmdStartLine0),
   ([0xA0#8], .cmdSegmentRemap0),
   ([0xC0#8], .cmdComScanNormal),
   ([0xDA#8, 0x12#8], .cmdComPins),
   ([0x81#8, 0x7F#8], .cmdContrast),
   ([0xA6#8], .cmdNormalDisplay),
   ([0xD5#8, 0x80#8], .cmdClockDiv),
   ([0x8D#8, 0x14#8], .cmdChargePump),
   ([0xAF#8], .cmdDisplayOnPanel)]

/-- The row of `fixedCommands` that a payload begins with. -/
def decodeFixed (rows : List (List Byte × Instr)) (bs : List Byte) : Option (Instr × List Byte) :=
  match rows with
  | [] => none
  | (pattern, i) :: more =>
    if pattern.isPrefixOf bs then some (i, bs.drop pattern.length) else decodeFixed more bs

/-- The next command of a COMMAND payload: the opcode byte tells the length, and a parameter byte is not
decoded as an opcode (R90, R98). DESIGN CHOICE (log entry 39): the spec orders whole payloads (R182), not single
commands, so which row a byte is where a value of `ADDR_MODE_PAGE_SEQ` or `ENTIRE_ON_IGNORE_RAM` other than the
default coincides with another row is this order: page start, low nibble, high nibble, 0xA4, the byte of
DISPLAY_ON_IGNORE_RAM, the mode sequence, the rows of `INIT_SEQ`. -/
def decodeCommand (p : Params) (bs : List Byte) : Except DecodeError (Instr × List Byte) :=
  match bs with
  | [] => .error .truncated
  | b :: rest =>
    if b &&& 0xF8#8 = pageStartBase then .ok (.cmdPageStart (b.extractLsb' 0 3), rest)
    else if b &&& 0xF0#8 = colLowBase then .ok (.cmdColLow (b.extractLsb' 0 4), rest)
    else if b &&& 0xF8#8 = colHighBase then .ok (.cmdColHigh (b.extractLsb' 0 3), rest)
    else if b = entireOnResume then .ok (.cmdEntireOnResume, rest)
    else if b = p.entireOnIgnoreRam then .ok (.cmdEntireOnIgnoreRam, rest)
    else if !p.addrModePageSeq.bytes.isEmpty && p.addrModePageSeq.bytes.isPrefixOf bs then
      .ok (.cmdAddrModePage, bs.drop p.addrModePageSeq.bytes.length)
    else
      match decodeFixed fixedCommands bs with
      | some out => .ok out
      | none => .error (.notACommand b)

/-- The decoder of each format. -/
def decodeWith (p : Params) : Format → List Byte → Except DecodeError (Instr × List Byte)
  | .req => decodeRequest p
  | .ctrl => decodeControl
  | .data => decodeData
  | .cmd => decodeCommand p

/-- The decoder with the default parameters, the table's own (R101). -/
def decode : Format → List Byte → Except DecodeError (Instr × List Byte) := decodeWith defaultParams

/-! ### The encoder -/

/-- The header and `plen` bytes of a request (R80; log entry 5). -/
def encodeHead (p : Params) (op : BitVec 4) (f : ReqArgs) : List Byte :=
  toBytes (headerBytes p) (headerWord p op f.arg0 f.arg1) ++ toBytes (plenBytes p) f.plen

/-- The bytes of a request with a payload. -/
def encodeSend (p : Params) (op : BitVec 4) (r : SendArgs) : List Byte :=
  encodeHead p op { arg0 := r.arg0, arg1 := r.arg1, plen := r.payload.length } ++ r.payload

/-- The bytes of an instruction under given parameters (R81, R84 to R91). -/
def encodeWith (p : Params) : Instr → List Byte
  | .sendCommands r => encodeSend p 0x0#4 r
  | .sendData r => encodeSend p 0x1#4 r
  | .setPage r => encodeHead p 0x2#4 r
  | .setColumn r => encodeHead p 0x3#4 r
  | .setMemPageMode r => encodeHead p 0x4#4 r
  | .init r => encodeHead p 0x5#4 r
  | .clear r => encodeHead p 0x6#4 r
  | .displayOn r => encodeHead p 0x7#4 r
  | .displayOnIgnoreRam r => encodeHead p 0x8#4 r
  | .reserved9 r => encodeHead p 0x9#4 r
  | .reservedAB low r => encodeHead p (0b101#3 ++ low) r
  | .reservedCF low r => encodeHead p (0b11#2 ++ low) r
  | .ctrlCommand => [0x00#8]
  | .ctrlData => [0x40#8]
  | .dataByte d => [d]
  | .cmdPageStart p => [0b10110#5 ++ p]
  | .cmdColLow l => [0b0000#4 ++ l]
  | .cmdColHigh h => [0b00010#5 ++ h]
  | .cmdEntireOnResume => [0xA4#8]
  | .cmdEntireOnIgnoreRam => [p.entireOnIgnoreRam]
  | .cmdAddrModePage => p.addrModePageSeq.bytes
  | .cmdDisplayOff => [0xAE#8]
  | .cmdMuxRatio => [0xA8#8, 0x3F#8]
  | .cmdDisplayOffset => [0xD3#8, 0x00#8]
  | .cmdStartLine0 => [0x40#8]
  | .cmdSegmentRemap0 => [0xA0#8]
  | .cmdComScanNormal => [0xC0#8]
  | .cmdComPins => [0xDA#8, 0x12#8]
  | .cmdContrast => [0x81#8, 0x7F#8]
  | .cmdNormalDisplay => [0xA6#8]
  | .cmdClockDiv => [0xD5#8, 0x80#8]
  | .cmdChargePump => [0x8D#8, 0x14#8]
  | .cmdDisplayOnPanel => [0xAF#8]

/-- The bytes of an instruction with the default parameters, the table's own (R101). -/
def encode : Instr → List Byte := encodeWith defaultParams

/-! ### Table words -/

/-- Byte `k` of a word, byte 0 the least significant. -/
def wordByte (w k : Nat) : Byte := BitVec.ofNat 8 (w / 256 ^ k)

/-- A request whose fields are those of the 20-bit header in the low bits of `w`, with `plen = 0`, as it lies on
the port under given parameters (R80, R101). -/
def tableRequestBytes (p : Params) (w : Nat) : List Byte :=
  encodeHead p (BitVec.ofNat 4 (w / 65536)) { arg0 := w / 256 % 256, arg1 := w % 256, plen := 0 }

/-- The format and the bytes of a table word. Up to 8 bits it is one byte: a control byte if it has one of
the two values, else a command if a row matches, else a DATA byte (log entry 17). A 16-bit row has its
first byte on the bus in bits 15 to 8 (R101). A longer word is the header of a request. -/
def tableWordBytes (p : Params) (nbits w : Nat) : Format × List Byte :=
  if nbits ≤ 8 then
    let b := wordByte w 0
    if b = ctrlCommandByte || b = ctrlDataByte then (.ctrl, [b])
    else
      match decode .cmd [b] with
      | .ok _ => (.cmd, [b])
      | .error _ => (.data, [b])
  else if nbits ≤ 16 then (.cmd, [wordByte w 1, wordByte w 0])
  else (.req, tableRequestBytes p w)

/-- The instruction the decoder reads from a table word. DESIGN CHOICE (log entry 17): a 16-bit word that no
`CMD2` row of R101 matches has no row; the answer is then the command that its first byte is by itself, where it
is one, as on the bus, and the second byte is left; else none. -/
def decodeTableWord (nbits w : Nat) : Option Instr :=
  match decode (tableWordBytes defaultParams nbits w).1 (tableWordBytes defaultParams nbits w).2 with
  | .ok (i, _) => some i
  | .error _ => none

end Sys2Proof
end

