-- ==== Sys2Proof/Machine/Fetch.lean ====
section
/-! DEFINITION. What the machine does next: construction, the controller's next instruction, the transport's turn, the next request, or nothing; and where an instruction's bytes are placed so that it is next (log entries 14, 28, 34, 37). -/

namespace Sys2Proof.Machine

/-- What the next step is about. -/
inductive Fetched where
  /-- a construction is asked for (R250, R253) -/
  | construct (sel : AddrSel)
  /-- the transport's turn at a write not answered yet (R56) -/
  | resume
  /-- nothing to do: the block is `IDLE` and no whole request is presented (R216) -/
  | nothing
  /-- an instruction, and the state without its bytes -/
  | run (i : Instr) (s : State)
  /-- bytes on the bus that are no instruction -/
  | stray
  deriving DecidableEq, Repr

/-- The format of the next byte on the bus: a control byte between frames, then what it chose (R84, R98). -/
def busFormat : RxMode → Format
  | .between => .ctrl
  | .command => .cmd
  | .data => .data

/-- The controller's next instruction. -/
def fetchBus (s : State) : Fetched :=
  match decodeWith s.params (busFormat s.rx.mode) s.bus with
  | .ok (i, rest) => .run i { s with bus := rest }
  | .error _ => .stray

/-- The next request on the port (R80); bytes that are not a whole request are none yet (R216; log entry 38). -/
def fetchRequest (s : State) : Fetched :=
  match decodeWith s.params .req s.hostIn with
  | .ok (i, rest) => .run i { s with hostIn := rest }
  | .error _ => .nothing

/-- What is next: construction first, then bytes on the bus, then an unanswered write, then a request,
which is taken only in `IDLE` (R25, R236). -/
def fetch (s : State) : Fetched :=
  match s.resetIn with
  | some sel => .construct sel
  | none =>
    if s.bus.isEmpty then
      match s.phase with
      | .busy => .resume
      | .idle => fetchRequest s
    else fetchBus s

/-- The controller's place in a frame before an instruction of a bus format. -/
def rxBefore : Format → Rx
  | .req => rxBetween
  | .ctrl => rxBetween
  | .cmd => { mode := .command, low := none }
  | .data => { mode := .data, low := none }

/-- Place an instruction's bytes where the next step takes them from: a request in front of the port's
queue, with the block `IDLE` and the bus empty; a bus instruction alone on the bus, at the place in a frame
its format has. -/
def placeBytes (f : Format) (bytes : List Byte) (s : State) : State :=
  match f with
  | .req => { s with hostIn := bytes ++ s.hostIn, phase := .idle, bus := [], rx := rxBetween, resetIn := none }
  | _ => { s with bus := bytes, rx := rxBefore f, resetIn := none }

end Sys2Proof.Machine
end

