-- ==== Sys2Proof/Machine/Step.lean ====
section
/-! DEFINITION. One step of the machine. -/

namespace Sys2Proof.Machine

/-- One step (00_scope R19): what `fetch` finds next. -/
def step (s : State) : Host.Outcome State Fault Refusal :=
  match fetch s with
  | .construct sel => constructStep sel s
  | .resume => .next (resume s)
  | .nothing => .next s
  | .run i t => exec i t
  | .stray => .next (busStray s)

/-- `s` with the instruction of a table word where the next step takes it from. -/
def State.withFetchWord (s : State) (nbits w : Nat) : State :=
  placeBytes (tableWordBytes s.params nbits w).1 (tableWordBytes s.params nbits w).2 s

end Sys2Proof.Machine
end

