-- ==== Sys2Proof/Safety.lean ====
section
/-! DEFINITION. What a good state is, what one answered transaction of a request leaves, and the frames of `clear()`: the terms the claims are stated in. -/

namespace Sys2Proof.Machine

/-- A frame the block may emit: control byte 0x00 or 0x40, at most 128 payload bytes after it (R83, R84, R125). -/
def legalFrame (frame : List Byte) : Prop :=
  (∃ payload, frame = 0x00#8 :: payload ∨ frame = 0x40#8 :: payload) ∧ frame.length ≤ 129

/-- Every record of `LOG` is a legal frame to the block's own address (R52, R125). -/
def logOk (s : State) : Prop := ∀ r ∈ s.log, r.addr = busAddr s.addrSel ∧ legalFrame r.bytes

/-- The RAM is in canonical form (log entry 11). -/
def ramOk (s : State) : Prop := Memory.wf s.shadow.ram = true

/-- While `BUSY`, the frame in `TXBUF` is that of call number `SEQ + 1` of the latched request (R22 to R26). -/
def busyOk (s : State) : Prop :=
  s.phase = .busy →
    ∃ c, (latchedCalls s)[s.seq.toNat]? = some c ∧ callFrame s.params c = .ok (builtFrame s)

/-- `SEQ` has a legal value (R26). -/
def seqOk (s : State) : Prop := s.seq.toNat ≤ 26

/-- No byte of a payload stream is held (R24). -/
def payloadOk (s : State) : Prop := s.payload = []

/-- The latches hold numbers of their widths (R24): `ARG_WIDTH` bits, and `LEN_WIDTH` bits of `PLEN`. -/
def latchesOk (s : State) : Prop :=
  s.arg0 < 2 ^ s.params.argWidth.bits ∧ s.arg1 < 2 ^ s.params.argWidth.bits ∧ s.plen < 2 ^ s.params.lenWidth.bits

/-- The invariant of the machine. -/
def State.Inv (s : State) : Prop := logOk s ∧ ramOk s ∧ busyOk s ∧ seqOk s ∧ payloadOk s ∧ latchesOk s

/-- The pointer names the cell where the next DATA byte lands (R189): page and column are known and, with
`DATA_NEEDS_PAGE_MODE`, the mode is PAGE. -/
def pointsAt (p : Params) (sh : Shadow) (page : BitVec 3) (col : BitVec 7) : Prop :=
  sh.page = some page ∧ sh.col = some col ∧ (p.dataNeedsPageMode = false ∨ sh.mode = some .page)

/-- The pointer names no cell (R189, R191). -/
def pointsNowhere (p : Params) (sh : Shadow) : Prop :=
  sh.page = none ∨ sh.col = none ∨ (p.dataNeedsPageMode = true ∧ sh.mode ≠ some .page)

/-- The result of one transaction: `Ok`, or the transport's error (R16, R213). -/
def statusOfAnswer : Answer → Status
  | .ok => .ok
  | .err _ => .transportError

/-- The shadow state after a frame answered `a` (R56): `ShadowApply` on `Ok`, `ShadowFail` on an error. -/
def shadowAfter (p : Params) (frame : List Byte) (a : Answer) (sh : Shadow) : Shadow :=
  match a with
  | .ok => shadowApply p frame sh
  | .err _ => shadowFail p frame sh

/-- What a request of one transaction leaves, once its write is answered `a`: one record, the frame in
`TXBUF`, the request in the latches, the response, the shadow state `sh`, and nothing else (R43, R120). -/
structure OneWrite (op : BitVec 4) (f : Fields) (frame : List Byte) (a : Answer) (sh : Shadow) (s t : State) : Prop where
  log : t.log = s.log ++ [{ addr := busAddr s.addrSel, bytes := frame, answer := a }]
  shadow : t.shadow = sh
  status : t.status = statusOfAnswer a
  terr : t.terr = match a with
    | .ok => s.terr
    | .err e => e
  seq : t.seq = match a with
    | .ok => 1#5
    | .err _ => 0#5
  phase : t.phase = .idle
  txlen : t.txlen.toNat = frame.length
  txbuf : t.txbuf.toList = frame ++ s.txbuf.toList.drop frame.length
  latches : t.op = op ∧ t.arg0 = f.arg0 ∧ t.arg1 = f.arg1 ∧ t.plen = f.plen ∧ t.payload = []
  turns : t.answers = s.answers.tail ∧ t.answerNo = s.answerNo + 1
  same : t.params = s.params ∧ t.addrSel = s.addrSel ∧ t.hostIn = s.hostIn ∧ t.bus = s.bus ∧ t.rx = s.rx ∧
    t.resetIn = s.resetIn

/-- The frames of one turn of the loop of `clear()` (R165): `00 B0+p`, `00 00 10`, `40` and 128 zeros. -/
def clearPageFrames (page : Nat) : List (List Byte) :=
  [[0x00#8, BitVec.ofNat 8 (0xB0 + page)], [0x00#8, 0x00#8, 0x10#8], 0x40#8 :: List.replicate 128 0x00#8]

/-- The 26 frames of `clear()` (R165). -/
def clearFrames : List (List Byte) :=
  clearPageFrames 0 ++ clearPageFrames 1 ++ clearPageFrames 2 ++ clearPageFrames 3 ++ clearPageFrames 4 ++
    clearPageFrames 5 ++ clearPageFrames 6 ++ clearPageFrames 7 ++ [[0x00#8, 0xB0#8], [0x00#8, 0x00#8, 0x10#8]]

/-- The instruction is a request of R81 or R96. -/
def isRequest (i : Instr) : Bool := i.format = .req

end Sys2Proof.Machine
end

