-- ==== Sys2Proof/Certificates/Slice0/Obligations.lean ====
section
/-! DEFINITION. The statements for the provers. Each docstring names the rule of spec/ it formalises. -/

open Sys2Proof Sys2Proof.Machine

/-! ### Reset and construction -/

/-- 70_reset_and_hazards R250 to R252, 10_state R42: after construction `ADDR_SEL` is the sampled input, the
block is `IDLE`, `LOG` is empty, and the controller is in `CTRL_RESET_STATE` (R7, D24), whose default is that the
whole shadow state is unknown. -/
def Obligations.ResetIsIdleSilentAndUnknown : Prop :=
  (∀ (p : Params) (sel : AddrSel),
    (State.resetWith p sel).params = p ∧
    (State.resetWith p sel).addrSel = sel ∧
    (State.resetWith p sel).phase = .idle ∧
    (State.resetWith p sel).log = [] ∧
    (State.resetWith p sel).shadow = p.ctrlResetState) ∧
  State.reset.shadow.page = none ∧ State.reset.shadow.col = none ∧ State.reset.shadow.mode = none ∧
  ∀ a, memRead State.reset.shadow.ram a = none

/-- The invariant of `EveryStepKeepsInvariant` holds after construction with either address and every setting of the
parameters whose `CTRL_RESET_STATE` is in canonical form: R251 gives the empty LOG, R42 the phase IDLE. That `SEQ`
is at most 26, that no payload byte is held and that the latches fit their widths rests on the model's values (log
entry 8, DESIGN CHOICE: R42 gives none), and that the RAM is in canonical form on log entry 11. -/
def Obligations.ResetMeetsInvariant : Prop :=
  ∀ (p : Params) (sel : AddrSel), Memory.wf p.ctrlResetState.ram = true → (State.resetWith p sel).Inv

/-- R253: a construction that is asked for is made only in `IDLE` and begins a lifetime with an empty `LOG` and an
unknown shadow state, whatever `CTRL_RESET_STATE` is; the parameters, the buffer, the latches, `SEQ`, the response
and the inputs stay (log entry 28). While `BUSY` it is refused. -/
def Obligations.ConstructionOnlyWhileIdle : Prop :=
  ∀ (s : State) (sel : AddrSel), s.resetIn = some sel →
    (s.phase = .idle →
      step s = .next { s with
        addrSel := sel, phase := .idle, log := [], resetIn := none,
        shadow := { page := none, col := none, mode := none, ram := [] } }) ∧
    (s.phase = .busy → step s = .refused .resetWhileBusy)

/-! ### The step -/

/-- Every step from a state that meets the invariant leads to one that meets it: the log holds only legal
frames to the block's own address (R52, R84, R125), the RAM is in canonical form, a `BUSY` block holds the
frame of its pending call (R22, R26), `SEQ` is at most 26 (R26), no byte of a payload stream is held, and the
latches hold numbers of `ARG_WIDTH` and `LEN_WIDTH` bits (R24).
The canonical form is the model's own (log entry 11). -/
def Obligations.EveryStepKeepsInvariant : Prop :=
  ∀ s t : State, s.Inv → step s = .next t → t.Inv

/-- R21, R35: short of a construction, no step changes the address or a record of the log, or the parameters
(log entry 2); the log only grows. -/
def Obligations.LogOnlyGrowsAndAddressStays : Prop :=
  ∀ s t : State, s.resetIn = none → step s = .next t →
    (∃ more, t.log = s.log ++ more) ∧ t.addrSel = s.addrSel ∧ t.params = s.params

/-- 20_memory R52: the bus addresses are 0x3C and 0x3D, and every record a step adds goes to the address that
`ADDR_SEL` selects, which no step but a construction changes. -/
def Obligations.EveryWriteGoesToTheSelectedAddress : Prop :=
  busAddr .primary = 0x3C#7 ∧ busAddr .alternate = 0x3D#7 ∧
  ∀ s t : State, s.resetIn = none → step s = .next t →
    t.addrSel = s.addrSel ∧ ∃ more, t.log = s.log ++ more ∧ ∀ r ∈ more, r.addr = busAddr s.addrSel

/-- 60_exceptions R216: between requests the block is `IDLE` and no state changes. Bytes on the port that are not a
whole request, or none, are no request yet (log entry 38). -/
def Obligations.IdleWithNoRequestChangesNothing : Prop :=
  ∀ (s : State) (e : DecodeError), s.resetIn = none → s.bus = [] → s.phase = .idle →
    decodeWith s.params .req s.hostIn = .error e → step s = .next s

/-- A step runs the decoded request: in `IDLE`, when the bytes on the request port decode to an instruction,
the step is that instruction's meaning on the state without those bytes. -/
def Obligations.StepRunsThePresentedRequest : Prop :=
  ∀ (s : State) (i : Instr) (rest : List Byte), s.resetIn = none → s.bus = [] → s.phase = .idle →
    decodeWith s.params .req s.hostIn = .ok (i, rest) → step s = exec i { s with hostIn := rest }

/-- A step runs the decoded bus instruction: when bytes are on the bus and decode in the format of the
controller's place in the frame, the step is that instruction's meaning on the state without those bytes (log
entry 14). Bytes that are none are taken as a whole: where a control byte must stand they have no effect (R181,
log entry 33), in a COMMAND payload they are class K6 (R182, R195, log entry 18). -/
def Obligations.StepRunsTheBusInstruction : Prop :=
  ∀ s : State, s.resetIn = none → s.bus ≠ [] →
    (∀ (i : Instr) (rest : List Byte),
      ((s.rx.mode = .between ∧ decodeWith s.params .ctrl s.bus = .ok (i, rest)) ∨
       (s.rx.mode = .command ∧ decodeWith s.params .cmd s.bus = .ok (i, rest)) ∨
       (s.rx.mode = .data ∧ decodeWith s.params .data s.bus = .ok (i, rest))) →
      step s = exec i { s with bus := rest }) ∧
    (∀ e, s.rx.mode = .between → decodeWith s.params .ctrl s.bus = .error e →
      step s = .next { s with bus := [], rx := { mode := .between, low := none } }) ∧
    ∀ e, s.rx.mode = .command → decodeWith s.params .cmd s.bus = .error e →
      step s = .next { s with
        shadow := shadowOther s.params s.bus s.shadow, bus := [], rx := { mode := .between, low := none } }

/-- R25, R236: while `BUSY` a presented request is not taken (log entry 29): the step answers a next state and leaves
the port as it is. That there is a step where the transport says nothing is the model's choice (log entry 4, DESIGN
CHOICE: R232 gives none). -/
def Obligations.RequestWaitsWhileBusy : Prop :=
  ∀ s : State, s.resetIn = none → s.bus = [] → s.phase = .busy →
    ∃ t, step s = .next t ∧ t.hostIn = s.hostIn

/-- R232: while the transport has not answered, the block stays `BUSY` and nothing but the transport's turn
changes (that it is a step is log entry 4). -/
def Obligations.BusyUntilAnswered : Prop :=
  ∀ s : State, s.resetIn = none → s.bus = [] → s.phase = .busy → nextAnswer s = none →
    step s = .next { s with answers := s.answers.tail, answerNo := s.answerNo + 1 }

/-- R56, R232, R268: an answer that comes late changes nothing but the moment. A request whose write number
`k + 1` is not answered at first, and which the next step carries on, ends as the request does when that
turn is left out. That an unanswered write is a state which the next step carries on is the model's choice (log
entry 4, DESIGN CHOICE: R232 gives a model no step there). -/
def Obligations.LateAnswerChangesNothing : Prop :=
  ∀ (i : Instr) (s t : State) (k : Nat) (more : List (Option Answer)), isRequest i = true →
    s.resetIn = none → s.bus = [] → s.phase = .idle →
    s.answers = List.replicate k (some .ok) ++ none :: more →
    exec i s = .next t → t.phase = .busy →
    step t = exec i { s with answers := List.replicate k (some .ok) ++ more, answerNo := s.answerNo + 1 }

/-! ### Encodings -/

/-- R80 to R91: decoding the encoding of a well-formed instruction gives it back, with the rest of the bytes,
every operand at every value, under every setting of the parameters (R7), `ARG_WIDTH` and `LEN_WIDTH` with them; for
the commands with the table's own bytes of the two command parameters (log entries 19 and 39). -/
def Obligations.DecodeUndoesEncode : Prop :=
  ∀ (p : Params) (i : Instr) (rest : List Byte), i.wellFormed p = true →
    (i.format = .cmd → p.addrModePageSeq.bytes = [0x20#8, 0x02#8] ∧ p.entireOnIgnoreRam = 0xA5#8) →
    decodeWith p i.format (encodeWith p i ++ rest) = .ok (i, rest)

/-- Bytes that decode are the encoding of what they decode to, which is well formed and of the format that
was read, under every setting of the parameters: no bit is dropped but those of the request port that are no part of
a field, by default the four bits above the header (log entry 5). -/
def Obligations.EncodeUndoesDecode : Prop :=
  ∀ (p : Params) (f : Format) (bytes : List Byte) (i : Instr) (rest : List Byte),
    (f = .cmd → p.addrModePageSeq.bytes = [0x20#8, 0x02#8] ∧ p.entireOnIgnoreRam = 0xA5#8) →
    decodeWith p f bytes = .ok (i, rest) →
    i.format = f ∧ i.wellFormed p = true ∧ encodeWith p i ++ rest = portBits p f bytes

/-- A few words written out from the table, as a sanity check (R81, R84, R85, R90, R101): headers
0x20300, 0x40340 and 0x60000, and bus words 0xB5, 0x2002, 0xA83F, 0x00 and 0x40. -/
def Obligations.SomeTableWordsDecode : Prop :=
  decodeTableWord 24 0x20300 = some (.setPage { arg0 := 3, arg1 := 0, plen := 0 }) ∧
  decodeTableWord 24 0x40340 = some (.setMemPageMode { arg0 := 3, arg1 := 0x40, plen := 0 }) ∧
  decodeTableWord 24 0x60000 = some (.clear { arg0 := 0, arg1 := 0, plen := 0 }) ∧
  decodeTableWord 8 0xB5 = some (.cmdPageStart 5#3) ∧
  decodeTableWord 16 0x2002 = some .cmdAddrModePage ∧
  decodeTableWord 16 0xA83F = some .cmdMuxRatio ∧
  decodeTableWord 8 0x00 = some .ctrlCommand ∧
  decodeTableWord 8 0x40 = some .ctrlData

/-- R80, R81, R96: with the default parameters, the operation of each of the sixteen codes, for all argument bytes,
every value of `plen` and any bytes after the request. SEND_COMMANDS and SEND_DATA take `plen` payload bytes; for
every other code `plen` is ignored and no payload byte is read, so that all the bytes after it are left. The order
of the bytes on the port is the model's choice (log entry 5, DESIGN CHOICE); R80 gives the header's bits. -/
def Obligations.OperationCodesDecode : Prop :=
  ∀ (arg0 arg1 : Byte) (op : BitVec 4) (l0 l1 : Byte) (rest : List Byte),
    (op = 0x0#4 → (l1 ++ l0).toNat ≤ rest.length →
      decode .req (arg1 :: arg0 :: (0#4 ++ op) :: l0 :: l1 :: rest) =
        .ok (.sendCommands { arg0 := arg0.toNat, arg1 := arg1.toNat, payload := rest.take (l1 ++ l0).toNat },
          rest.drop (l1 ++ l0).toNat)) ∧
    (op = 0x1#4 → (l1 ++ l0).toNat ≤ rest.length →
      decode .req (arg1 :: arg0 :: (0#4 ++ op) :: l0 :: l1 :: rest) =
        .ok (.sendData { arg0 := arg0.toNat, arg1 := arg1.toNat, payload := rest.take (l1 ++ l0).toNat },
          rest.drop (l1 ++ l0).toNat)) ∧
    (2#4 ≤ op → ∃ i, decode .req (arg1 :: arg0 :: (0#4 ++ op) :: l0 :: l1 :: rest) = .ok (i, rest) ∧
      (op = 0x2#4 → i = .setPage { arg0 := arg0.toNat, arg1 := arg1.toNat, plen := (l1 ++ l0).toNat }) ∧
      (op = 0x3#4 → i = .setColumn { arg0 := arg0.toNat, arg1 := arg1.toNat, plen := (l1 ++ l0).toNat }) ∧
      (op = 0x4#4 → i = .setMemPageMode { arg0 := arg0.toNat, arg1 := arg1.toNat, plen := (l1 ++ l0).toNat }) ∧
      (op = 0x5#4 → i = .init { arg0 := arg0.toNat, arg1 := arg1.toNat, plen := (l1 ++ l0).toNat }) ∧
      (op = 0x6#4 → i = .clear { arg0 := arg0.toNat, arg1 := arg1.toNat, plen := (l1 ++ l0).toNat }) ∧
      (op = 0x7#4 → i = .displayOn { arg0 := arg0.toNat, arg1 := arg1.toNat, plen := (l1 ++ l0).toNat }) ∧
      (op = 0x8#4 → i = .displayOnIgnoreRam { arg0 := arg0.toNat, arg1 := arg1.toNat, plen := (l1 ++ l0).toNat }) ∧
      (op = 0x9#4 → i = .reserved9 { arg0 := arg0.toNat, arg1 := arg1.toNat, plen := (l1 ++ l0).toNat }) ∧
      (op = 0xA#4 ∨ op = 0xB#4 →
        i = .reservedAB (op.extractLsb' 0 1) { arg0 := arg0.toNat, arg1 := arg1.toNat, plen := (l1 ++ l0).toNat }) ∧
      (0xC#4 ≤ op →
        i = .reservedCF (op.extractLsb' 0 2) { arg0 := arg0.toNat, arg1 := arg1.toNat, plen := (l1 ++ l0).toNat }))

/-! ### Requests of one transaction -/

/-- R121: SEND_COMMANDS of at most 128 bytes writes the one frame `00 ++ bytes`, whatever the answer. -/
def Obligations.SendCommandsWritesOneFrame : Prop :=
  ∀ (s : State) (r : SendArgs) (a : Answer), s.phase = .idle → nextAnswer s = some a → r.payload.length ≤ 128 →
    ∃ t, exec (.sendCommands r) s = .next t ∧
      OneWrite 0x0#4 (sendFields r) (0x00#8 :: r.payload) a (shadowAfter s.params (0x00#8 :: r.payload) a s.shadow) s t

/-- R122: SEND_DATA of at most 128 bytes writes the one frame `40 ++ bytes`, whatever the answer and wherever
the pointer is. -/
def Obligations.SendDataWritesOneFrame : Prop :=
  ∀ (s : State) (r : SendArgs) (a : Answer), s.phase = .idle → nextAnswer s = some a → r.payload.length ≤ 128 →
    ∃ t, exec (.sendData r) s = .next t ∧
      OneWrite 0x1#4 (sendFields r) (0x40#8 :: r.payload) a (shadowAfter s.params (0x40#8 :: r.payload) a s.shadow) s t

/-- R124: a primitive in `IDLE` whose payload passes the size check makes one write, whatever its answer, and
forwards an error unchanged; one whose payload fails it makes none and ends with `BufferTooSmall`. So it adds one
record or none, none exactly when the result is `BufferTooSmall`. -/
def Obligations.PrimitiveAddsOneRecordOrNone : Prop :=
  ∀ (s : State) (r : SendArgs) (i : Instr) (a : Answer), s.phase = .idle →
    (i = .sendCommands r ∨ i = .sendData r) → nextAnswer s = some a →
    ∃ t, exec i s = .next t ∧ t.phase = .idle ∧
      (128 < r.payload.length → t.status = .bufferTooSmall ∧ t.log = s.log) ∧
      (r.payload.length ≤ 128 →
        (∃ frame, t.log = s.log ++ [{ addr := busAddr s.addrSel, bytes := frame, answer := a }]) ∧
        match a with
        | .ok => t.status = .ok
        | .err e => t.status = .transportError ∧ t.terr = e)

/-- R56, R120: while the write of a primitive is not answered the block is `BUSY` with the frame in `TXBUF`, and
there is no record of it yet (the model's choice, log entry 4). -/
def Obligations.UnansweredPrimitiveHasNoRecord : Prop :=
  ∀ (s : State) (r : SendArgs), s.phase = .idle → r.payload.length ≤ 128 → nextAnswer s = none →
    (∃ t, exec (.sendCommands r) s = .next t ∧ t.phase = .busy ∧ t.log = s.log ∧ t.shadow = s.shadow ∧
      t.txbuf.toList.take t.txlen.toNat = 0x00#8 :: r.payload) ∧
    ∃ t, exec (.sendData r) s = .next t ∧ t.phase = .busy ∧ t.log = s.log ∧ t.shadow = s.shadow ∧
      t.txbuf.toList.take t.txlen.toNat = 0x40#8 :: r.payload

/-- R140, R183, R190: SET_PAGE with `page < 8` writes `00, B0|page`; on `Ok` the page is known and the column
is not (unless `PAGE_SET_KEEPS_COLUMN`), on an error pointer and mode are unknown and the RAM is as before. -/
def Obligations.SetPageWritesPageStart : Prop :=
  ∀ (s : State) (r : ReqArgs) (a : Answer), s.phase = .idle → nextAnswer s = some a → r.arg0 < 8 →
    ∃ t, exec (.setPage r) s = .next t ∧
      OneWrite 0x2#4 (reqFields r) [0x00#8, 0xB0#8 ||| BitVec.ofNat 8 r.arg0] a
        (match a with
          | .ok => { s.shadow with
              page := some (BitVec.ofNat 3 r.arg0),
              col := if s.params.pageSetKeepsColumn then s.shadow.col else none }
          | .err _ => { page := none, col := none, mode := none, ram := s.shadow.ram }) s t

/-- R141, R185, R190: SET_COLUMN with `column < 128` writes the nibble pair, low first; on `Ok` the column is
known. -/
def Obligations.SetColumnWritesNibblePair : Prop :=
  ∀ (s : State) (r : ReqArgs) (a : Answer), s.phase = .idle → nextAnswer s = some a → r.arg0 < 128 →
    ∃ t, exec (.setColumn r) s = .next t ∧
      OneWrite 0x3#4 (reqFields r) [0x00#8, 0x00#8 ||| (BitVec.ofNat 8 r.arg0 &&& 0x0F#8),
          0x10#8 ||| ((BitVec.ofNat 8 r.arg0 >>> 4) &&& 0x0F#8)] a
        (match a with
          | .ok => { s.shadow with col := some (BitVec.ofNat 7 r.arg0) }
          | .err _ => { page := none, col := none, mode := none, ram := s.shadow.ram }) s t

/-- R142, R186, R190: SET_MEM_PAGE_MODE with both arguments in range writes mode bytes, page start and column
pair in one frame; on `Ok` mode, page and column are known. -/
def Obligations.SetMemPageModeWritesOneFrame : Prop :=
  ∀ (s : State) (r : ReqArgs) (a : Answer), s.phase = .idle → nextAnswer s = some a → r.arg0 < 8 → r.arg1 < 128 →
    ∃ t, exec (.setMemPageMode r) s = .next t ∧
      OneWrite 0x4#4 (reqFields r)
        (0x00#8 :: (s.params.addrModePageSeq.bytes ++
          [0xB0#8 ||| BitVec.ofNat 8 r.arg0,
           0x00#8 ||| (BitVec.ofNat 8 r.arg1 &&& 0x0F#8),
           0x10#8 ||| ((BitVec.ofNat 8 r.arg1 >>> 4) &&& 0x0F#8)])) a
        (match a with
          | .ok => { s.shadow with
              page := some (BitVec.ofNat 3 r.arg0), col := some (BitVec.ofNat 7 r.arg1), mode := some .page }
          | .err _ => { page := none, col := none, mode := none, ram := s.shadow.ram }) s t

/-- R160, R91, R194: INIT writes the control byte and the 19 bytes in this order; on `Ok` the shadow state is
unchanged (log entry 25). -/
def Obligations.InitWritesTheSequence : Prop :=
  ∀ (s : State) (r : ReqArgs) (a : Answer), s.phase = .idle → nextAnswer s = some a →
    ∃ t, exec (.init r) s = .next t ∧
      OneWrite 0x5#4 (reqFields r)
        [0x00#8, 0xAE#8, 0xA8#8, 0x3F#8, 0xD3#8, 0x00#8, 0x40#8, 0xA0#8, 0xC0#8, 0xDA#8, 0x12#8, 0x81#8, 0x7F#8,
         0xA4#8, 0xA6#8, 0xD5#8, 0x80#8, 0x8D#8, 0x14#8, 0xAF#8] a
        (match a with
          | .ok => s.shadow
          | .err _ => { page := none, col := none, mode := none, ram := s.shadow.ram }) s t

/-- R167, R193: DISPLAY_ON writes `00 A4`; on `Ok` the shadow state is unchanged. -/
def Obligations.DisplayOnWritesResume : Prop :=
  ∀ (s : State) (r : ReqArgs) (a : Answer), s.phase = .idle → nextAnswer s = some a →
    ∃ t, exec (.displayOn r) s = .next t ∧
      OneWrite 0x7#4 (reqFields r) [0x00#8, 0xA4#8] a
        (match a with
          | .ok => s.shadow
          | .err _ => { page := none, col := none, mode := none, ram := s.shadow.ram }) s t

/-- R168, R193: DISPLAY_ON_IGNORE_RAM writes `00` and the byte `ENTIRE_ON_IGNORE_RAM`; on `Ok` the shadow
state is unchanged. The parameter must not be a page-start byte, which class K1 would take first (R182). -/
def Obligations.DisplayOnIgnoreRamWritesItsByte : Prop :=
  ∀ (s : State) (r : ReqArgs) (a : Answer), s.phase = .idle → nextAnswer s = some a →
    s.params.entireOnIgnoreRam &&& 0xF8#8 ≠ 0xB0#8 →
    ∃ t, exec (.displayOnIgnoreRam r) s = .next t ∧
      OneWrite 0x8#4 (reqFields r) [0x00#8, s.params.entireOnIgnoreRam] a
        (match a with
          | .ok => s.shadow
          | .err _ => { page := none, col := none, mode := none, ram := s.shadow.ram }) s t

/-! ### CLEAR -/

/-- R164, R165, R198: when the transport answers `Ok` 26 times, CLEAR writes the 26 frames in order, ends
`Ok` with `SEQ = 26`, every RAM cell 0x00, the pointer at page 0 column 0 and the mode unchanged. With
`DATA_NEEDS_PAGE_MODE` the mode must be PAGE. -/
def Obligations.ClearWritesAllFrames : Prop :=
  ∀ (s : State) (r : ReqArgs) (more : List (Option Answer)), s.phase = .idle →
    s.answers = List.replicate 26 (some .ok) ++ more →
    (s.params.dataNeedsPageMode = false ∨ s.shadow.mode = some .page) →
    ∃ t, exec (.clear r) s = .next t ∧
      t.log = s.log ++ clearFrames.map (fun f => { addr := busAddr s.addrSel, bytes := f, answer := .ok }) ∧
      t.status = .ok ∧ t.phase = .idle ∧ t.seq = 26#5 ∧ t.terr = s.terr ∧
      t.shadow.page = some 0#3 ∧ t.shadow.col = some 0#7 ∧ t.shadow.mode = s.shadow.mode ∧
      (∀ a, a < 1024 → memRead t.shadow.ram a = some 0x00#8) ∧
      t.answers = more ∧ t.addrSel = s.addrSel ∧ t.params = s.params ∧ t.hostIn = s.hostIn ∧ t.bus = s.bus ∧
      t.rx = s.rx ∧ t.resetIn = s.resetIn

/-- R166, R171, R190: when write `k` is the first that the transport answers with an error, CLEAR stops
there (counted from 0: `k` writes before it are answered `Ok`): `k + 1` records, `SEQ = k`, that error unchanged,
pointer and mode unknown. The rows of the pages whose three calls succeeded are zero; the row of a DATA write that
failed is unknown; every other cell keeps what it held. -/
def Obligations.ClearAbortsAtTheFirstError : Prop :=
  ∀ (s : State) (r : ReqArgs) (k : Nat) (e : TErr) (more : List (Option Answer)), s.phase = .idle →
    k < 26 → s.answers = List.replicate k (some .ok) ++ some (.err e) :: more →
    isTerr s.params e = true → (s.params.dataNeedsPageMode = false ∨ s.shadow.mode = some .page) →
    ∃ t last, exec (.clear r) s = .next t ∧
      clearFrames[k]? = some last ∧
      t.log = s.log ++ (clearFrames.take k).map (fun f => { addr := busAddr s.addrSel, bytes := f, answer := .ok }) ++
        [{ addr := busAddr s.addrSel, bytes := last, answer := .err e }] ∧
      t.status = .transportError ∧ t.terr = e ∧ t.phase = .idle ∧ t.seq.toNat = k ∧
      t.shadow.page = none ∧ t.shadow.col = none ∧ t.shadow.mode = none ∧
      (∀ a, memRead t.shadow.ram a =
        if a < 128 * (k / 3) then some 0x00#8
        else if k % 3 = 2 ∧ a < 128 * (k / 3) + 128 then none
        else memRead s.shadow.ram a) ∧
      t.answers = more ∧ t.addrSel = s.addrSel ∧ t.params = s.params ∧ t.hostIn = s.hostIn ∧ t.bus = s.bus ∧
      t.rx = s.rx ∧ t.resetIn = s.resetIn

/-- R165, R166, R170, R232: whatever the transport does, CLEAR in `IDLE` answers a next state that has
written the first `n` of the 26 frames, and if it has ended, then with `Ok` after all 26 or with a transport
error. That it answers one where the transport says nothing is the model's choice (log entry 4, DESIGN CHOICE: R232
gives a model no step there). -/
def Obligations.ClearWritesAPrefixOfItsFrames : Prop :=
  ∀ (s : State) (r : ReqArgs), s.phase = .idle →
    ∃ t n, exec (.clear r) s = .next t ∧ n ≤ 26 ∧
      t.log.map LogRecord.bytes = s.log.map LogRecord.bytes ++ clearFrames.take n ∧
      (t.phase = .idle → (t.status = .ok ∧ n = 26) ∨ t.status = .transportError)

/-! ### Requests that are rejected or refused -/

/-- R96, R214: a request with a reserved operation code ends with status 4; nothing but `STATUS` and `SEQ`
changes (`PHASE` is `IDLE` before and after, 90_conflicts C8). -/
def Obligations.ReservedCodesAnswerIllegalOp : Prop :=
  statusCode .illegalOp = 4#3 ∧
  ∀ (s : State) (r : ReqArgs) (one : BitVec 1) (two : BitVec 2), s.phase = .idle →
    exec (.reserved9 r) s = .next { s with status := .illegalOp, seq := 0#5 } ∧
    exec (.reservedAB one r) s = .next { s with status := .illegalOp, seq := 0#5 } ∧
    exec (.reservedCF two r) s = .next { s with status := .illegalOp, seq := 0#5 }

/-- R143, R211, R219: under `RANGE_POLICY = report` an argument out of range is answered `RANGE_VIOLATION`
with no write; nothing but `STATUS` and `SEQ` changes, whatever the transport would have answered. -/
def Obligations.RangeViolationIsReported : Prop :=
  ∀ (s : State) (r : ReqArgs), s.phase = .idle → s.params.rangePolicy = .report →
    (8 ≤ r.arg0 → exec (.setPage r) s = .next { s with status := .rangeViolation, seq := 0#5 }) ∧
    (128 ≤ r.arg0 → exec (.setColumn r) s = .next { s with status := .rangeViolation, seq := 0#5 }) ∧
    (8 ≤ r.arg0 ∨ 128 ≤ r.arg1 →
      exec (.setMemPageMode r) s = .next { s with status := .rangeViolation, seq := 0#5 })

/-- R222: under `RANGE_POLICY = fault` the same requests are a fault. -/
def Obligations.RangeViolationFaults : Prop :=
  ∀ (s : State) (r : ReqArgs), s.phase = .idle → s.params.rangePolicy = .fault →
    (8 ≤ r.arg0 → exec (.setPage r) s = .fault .rangeViolation) ∧
    (128 ≤ r.arg0 → exec (.setColumn r) s = .fault .rangeViolation) ∧
    (8 ≤ r.arg0 ∨ 128 ≤ r.arg1 → exec (.setMemPageMode r) s = .fault .rangeViolation)

/-- R94, R123, R212, R219: a payload over 128 bytes is answered `BUFFER_TOO_SMALL` before any write to
`TXBUF` or the bus; nothing but `STATUS` and `SEQ` changes. -/
def Obligations.OversizePayloadIsRejected : Prop :=
  ∀ (s : State) (r : SendArgs), s.phase = .idle → 128 < r.payload.length →
    exec (.sendCommands r) s = .next { s with status := .bufferTooSmall, seq := 0#5 } ∧
    exec (.sendData r) s = .next { s with status := .bufferTooSmall, seq := 0#5 }

/-- R25, R80, R236: a request executed while `BUSY` is refused. -/
def Obligations.RequestsAreRefusedWhileBusy : Prop :=
  ∀ (i : Instr) (s : State), isRequest i = true → s.phase = .busy → exec i s = .refused .requestWhileBusy

/-- R190, R213, R219, R220, R231: when the first write of a request is answered with an error, the request
ends there with that error unchanged: one record, `SEQ = 0`, pointer and mode unknown. The request must
pass its checks, which is said by its not leaving the log as it is. -/
def Obligations.TransportErrorIsForwarded : Prop :=
  ∀ (i : Instr) (s t : State) (e : TErr), isRequest i = true → s.phase = .idle →
    nextAnswer s = some (.err e) → exec i s = .next t → t.log ≠ s.log →
    t.status = .transportError ∧ t.terr = e ∧ t.phase = .idle ∧ t.seq = 0#5 ∧
    (∃ frame, t.log = s.log ++ [{ addr := busAddr s.addrSel, bytes := frame, answer := .err e }]) ∧
    t.shadow.page = none ∧ t.shadow.col = none ∧ t.shadow.mode = none

/-- R231: every error that a step records or leaves in `TERR_REG` under `TRANSPORT_ERROR` is a value of the
transport's type `TERR` (here the parameter `terrCount`, log entry 7); so where that type is empty, `Transport(e)`
never occurs. -/
def Obligations.EveryErrorIsOneOfTheTransports : Prop :=
  ∀ s t : State, s.resetIn = none → step s = .next t →
    (∃ more, t.log = s.log ++ more ∧
      ∀ r ∈ more, ∀ e, r.answer = .err e → isTerr s.params e = true) ∧
    (t.status = .transportError → isTerr s.params t.terr = true ∨ (s.status = .transportError ∧ t.terr = s.terr)) ∧
    (s.params.terrCount = some 0 → ∀ e, isTerr s.params e = false)

/-- 60_exceptions R210: the numeric codes of the statuses. -/
def Obligations.StatusCodesAreThoseOfTheTable : Prop :=
  statusCode .ok = 0#3 ∧ statusCode .bufferTooSmall = 1#3 ∧ statusCode .rangeViolation = 2#3 ∧
  statusCode .transportError = 3#3 ∧ statusCode .illegalOp = 4#3

/-! ### What nothing reads -/

/-- R30: no operation's behaviour depends on the pointer, the mode or the RAM: two states that differ only in
the shadow state step to states that differ only in it. -/
def Obligations.ShadowStateIsNeverRead : Prop :=
  ∀ (s t : State) (sh : Shadow), s.bus = [] → step s = .next t →
    ∃ t', step { s with shadow := sh } = .next t' ∧ { t' with shadow := t.shadow } = t

/-- R27: no operation reads the response registers: two states that differ only in them step to states that
differ at most in them. -/
def Obligations.ResponseRegistersAreNeverRead : Prop :=
  ∀ (s t : State) (st : Status) (e : TErr), step s = .next t →
    ∃ t', step { s with status := st, terr := e } = .next t' ∧
      { t' with status := t.status, terr := t.terr } = t

/-- R22, R23: no operation observes a `TXBUF` byte or a `TXLEN` left by an earlier operation. -/
def Obligations.StaleBufferIsNeverRead : Prop :=
  ∀ (i : Instr) (s t : State) (buf : Vector Byte 129) (len : BitVec 8), isRequest i = true → exec i s = .next t →
    ∃ t', exec i { s with txbuf := buf, txlen := len } = .next t' ∧
      { t' with txbuf := t.txbuf, txlen := t.txlen } = t

/-! ### Frames of the requests -/

/-- R43, R20: what no request changes, and that it only adds to the log. -/
def Obligations.RequestsLeaveTheRestAlone : Prop :=
  ∀ (i : Instr) (s t : State), isRequest i = true → exec i s = .next t →
    t.params = s.params ∧ t.addrSel = s.addrSel ∧ t.hostIn = s.hostIn ∧ t.bus = s.bus ∧ t.rx = s.rx ∧
    t.resetIn = s.resetIn ∧ ∃ more, t.log = s.log ++ more

/-- R43, R53, R190: SET_PAGE, SET_COLUMN, SET_MEM_PAGE_MODE, INIT, DISPLAY_ON, DISPLAY_ON_IGNORE_RAM and the
reserved codes store nothing: every RAM cell reads as before, whatever the transport answers. -/
def Obligations.AddressingRequestsStoreNothing : Prop :=
  ∀ (i : Instr) (s t : State) (r : ReqArgs) (one : BitVec 1) (two : BitVec 2),
    i ∈ [Instr.setPage r, .setColumn r, .setMemPageMode r, .init r, .displayOn r, .displayOnIgnoreRam r,
      .reserved9 r, .reservedAB one r, .reservedCF two r] →
    exec i s = .next t → ∀ a, memRead t.shadow.ram a = memRead s.shadow.ram a

/-! ### The shadow state machine -/

/-- R183, R185, R186, R193: what the page-start command, the column nibble pair, the page-mode sequence and
the entire-on commands do to the shadow state, as whole COMMAND payloads. A pair whose second byte is 0x18 to
0x1F is class K6. A byte of DISPLAY_ON_IGNORE_RAM that is a page-start byte would be taken as class K1. -/
def Obligations.PointerPayloadEffects : Prop :=
  ∀ (p : Params) (sh : Shadow),
    (∀ page : BitVec 3, shadowApply p [0x00#8, 0b10110#5 ++ page] sh =
      { sh with page := some page, col := if p.pageSetKeepsColumn then sh.col else none }) ∧
    (∀ (high : BitVec 3) (low : BitVec 4), shadowApply p [0x00#8, 0x0#4 ++ low, 0b00010#5 ++ high] sh =
      { sh with col := some (high ++ low) }) ∧
    (∀ (high : BitVec 3) (low : BitVec 4), classify p [0x0#4 ++ low, 0b00011#5 ++ high] = .k6) ∧
    (∀ (page high : BitVec 3) (low : BitVec 4),
      shadowApply p (0x00#8 :: (p.addrModePageSeq.bytes ++ [0b10110#5 ++ page, 0x0#4 ++ low, 0b00010#5 ++ high])) sh =
        { sh with page := some page, col := some (high ++ low), mode := some .page }) ∧
    shadowApply p [0x00#8, 0xA4#8] sh = sh ∧
    (p.entireOnIgnoreRam &&& 0xF8#8 ≠ 0xB0#8 → shadowApply p [0x00#8, p.entireOnIgnoreRam] sh = sh)

/-- R182, R194, R195, R196, with the default `OTHER_CMD_EFFECT` and the default byte of
DISPLAY_ON_IGNORE_RAM: an empty payload and `INIT_SEQ` (log entry 25) change nothing, and a payload of none of
the classes makes everything unknown. -/
def Obligations.OtherPayloadsForget : Prop :=
  ∀ (p : Params) (sh : Shadow), p.otherCmdEffect = .unknown → p.entireOnIgnoreRam = 0xA5#8 →
    shadowApply p [0x00#8] sh = sh ∧
    shadowApply p (0x00#8 :: initSeq) sh = sh ∧
    (∀ c : List Byte, c ≠ [] → (∀ page : BitVec 3, c ≠ [0b10110#5 ++ page]) →
      (∀ (high : BitVec 3) (low : BitVec 4), c ≠ [0x0#4 ++ low, 0b00010#5 ++ high]) →
      (∀ (page high : BitVec 3) (low : BitVec 4),
        c ≠ p.addrModePageSeq.bytes ++ [0b10110#5 ++ page, 0x0#4 ++ low, 0b00010#5 ++ high]) →
      c ≠ [0xA4#8] → c ≠ [0xA5#8] → c ≠ initSeq →
      shadowApply p (0x00#8 :: c) sh = { page := none, col := none, mode := none, ram := [] })

/-- R187: a COMMAND payload that is one column nibble alone leaves nothing known, the column with it. -/
def Obligations.LoneNibbleForgets : Prop :=
  ∀ (p : Params) (sh : Shadow) (low high : BitVec 4), p.otherCmdEffect = .unknown →
    p.entireOnIgnoreRam = 0xA5#8 →
    shadowApply p [0x00#8, 0x0#4 ++ low] sh = { page := none, col := none, mode := none, ram := [] } ∧
    shadowApply p [0x00#8, 0x1#4 ++ high] sh = { page := none, col := none, mode := none, ram := [] }

/-- R189: DATA bytes that stay short of the row's end land one column after another on the page, and nothing else
changes. The pointer is known and, with `DATA_NEEDS_PAGE_MODE`, the mode is PAGE. -/
def Obligations.DataLandsInTheRow : Prop :=
  ∀ (p : Params) (sh : Shadow) (page : BitVec 3) (col : BitVec 7) (d : List Byte),
    pointsAt p sh page col → col.toNat + d.length ≤ 127 →
    (shadowApply p (0x40#8 :: d) sh).page = some page ∧
    (shadowApply p (0x40#8 :: d) sh).col = some (col + BitVec.ofNat 7 d.length) ∧
    (shadowApply p (0x40#8 :: d) sh).mode = sh.mode ∧
    (∀ i, i < d.length →
      memRead (shadowApply p (0x40#8 :: d) sh).ram (page.toNat * 128 + (col.toNat + i)) = d[i]?) ∧
    ∀ a, (a < page.toNat * 128 + col.toNat ∨ page.toNat * 128 + col.toNat + d.length ≤ a) →
      memRead (shadowApply p (0x40#8 :: d) sh).ram a = memRead sh.ram a

/-- R189, R191: DATA with an unknown page or column makes every cell and the pointer unknown, and so does DATA at a
known pointer in another mode than PAGE with `DATA_NEEDS_PAGE_MODE`. -/
def Obligations.DataAtUnknownPointerForgets : Prop :=
  ∀ (p : Params) (sh : Shadow) (d : List Byte), d ≠ [] → pointsNowhere p sh →
    shadowApply p (0x40#8 :: d) sh = { page := none, col := none, mode := sh.mode, ram := [] }

/-- R192 with `WRAP_RULE = unknown`, or with `page_mode_wrap` in another mode than PAGE: DATA that reaches column 127
exactly fills the row to its end and leaves the pointer unknown; DATA that passes it leaves every cell unknown.
The pointer is known and, with `DATA_NEEDS_PAGE_MODE`, the mode is PAGE. -/
def Obligations.RowEndForgetsThePointer : Prop :=
  ∀ (p : Params) (sh : Shadow) (page : BitVec 3) (col : BitVec 7) (d : List Byte),
    pointsAt p sh page col → (p.wrapRule = .unknown ∨ sh.mode ≠ some .page) → 128 ≤ col.toNat + d.length →
    (shadowApply p (0x40#8 :: d) sh).page = none ∧
    (shadowApply p (0x40#8 :: d) sh).col = none ∧
    (shadowApply p (0x40#8 :: d) sh).mode = sh.mode ∧
    (col.toNat + d.length = 128 →
      (∀ i, i < d.length →
        memRead (shadowApply p (0x40#8 :: d) sh).ram (page.toNat * 128 + (col.toNat + i)) = d[i]?) ∧
      ∀ a, (a < page.toNat * 128 + col.toNat ∨ page.toNat * 128 + 128 ≤ a) →
        memRead (shadowApply p (0x40#8 :: d) sh).ram a = memRead sh.ram a) ∧
    (128 < col.toNat + d.length → ∀ a, memRead (shadowApply p (0x40#8 :: d) sh).ram a = none)

/-- R192 with `WRAP_RULE = page_mode_wrap` and mode PAGE: byte `i` lands at column `(c + i) mod 128` of the
same page. The wrap is general knowledge, not in the spec's source (log entry 21, PRESUMED). -/
def Obligations.RowEndWrapsInPageMode : Prop :=
  ∀ (p : Params) (sh : Shadow) (page : BitVec 3) (col : BitVec 7) (d : List Byte),
    p.wrapRule = .pageModeWrap → sh.mode = some .page → sh.page = some page → sh.col = some col →
    128 ≤ col.toNat + d.length → d.length ≤ 128 →
    (shadowApply p (0x40#8 :: d) sh).page = some page ∧
    (shadowApply p (0x40#8 :: d) sh).col = some (BitVec.ofNat 7 ((col.toNat + d.length) % 128)) ∧
    (shadowApply p (0x40#8 :: d) sh).mode = some .page ∧
    (∀ i, i < d.length →
      memRead (shadowApply p (0x40#8 :: d) sh).ram (page.toNat * 128 + (col.toNat + i) % 128) = d[i]?) ∧
    ∀ a, (∀ i, i < d.length → a ≠ page.toNat * 128 + (col.toNat + i) % 128) →
      memRead (shadowApply p (0x40#8 :: d) sh).ram a = memRead sh.ram a

/-- R196: a frame that is a control byte alone changes nothing of the shadow state. -/
def Obligations.EmptyPayloadChangesNothing : Prop :=
  ∀ (p : Params) (sh : Shadow), shadowApply p [0x00#8] sh = sh ∧ shadowApply p [0x40#8] sh = sh

/-- R189, R191, R192: a DATA payload has the effect of its first part and then of its second. -/
def Obligations.DataSplitsAnywhere : Prop :=
  ∀ (p : Params) (sh : Shadow) (d e : List Byte), applyData p (d ++ e) sh = applyData p e (applyData p d sh)

/-- R190: a failed write makes pointer and mode unknown; a failed DATA write that would have stayed in its row
makes the cells it names unknown and no other; every other non-empty failed DATA write makes every cell
unknown (with `DATA_NEEDS_PAGE_MODE` also one at a known pointer in another mode than PAGE: log entry 23); a failed
COMMAND write of a recognised class, or of an empty payload, leaves the RAM, and one of class K6 makes every cell
unknown. -/
def Obligations.FailedWriteForgets : Prop :=
  ∀ (p : Params) (sh : Shadow),
    (∀ frame, (shadowFail p frame sh).page = none ∧ (shadowFail p frame sh).col = none ∧
      (shadowFail p frame sh).mode = none) ∧
    (∀ (page : BitVec 3) (col : BitVec 7) (d : List Byte), pointsAt p sh page col → d ≠ [] →
      (col.toNat + d.length ≤ 128 → ∀ a, memRead (shadowFail p (0x40#8 :: d) sh).ram a =
        if page.toNat * 128 + col.toNat ≤ a ∧ a < page.toNat * 128 + col.toNat + d.length then none
        else memRead sh.ram a) ∧
      (128 < col.toNat + d.length → ∀ a, memRead (shadowFail p (0x40#8 :: d) sh).ram a = none)) ∧
    (∀ d : List Byte, d ≠ [] → pointsNowhere p sh → ∀ a, memRead (shadowFail p (0x40#8 :: d) sh).ram a = none) ∧
    (shadowFail p [0x40#8] sh).ram = sh.ram ∧
    ∀ c : List Byte,
      (classify p c ≠ .k6 → (shadowFail p (0x00#8 :: c) sh).ram = sh.ram) ∧
      (classify p c = .k6 → ∀ a, memRead (shadowFail p (0x00#8 :: c) sh).ram a = none)

/-! ### The controller takes a frame one instruction at a time -/

/-- The refinement between the two levels (R56, R181, R182, R189; log entries 14 to 16, 33): with the table's own
parameter bytes (with others rows may coincide, log entry 39), a frame on the bus, taken one instruction at a
time, leaves the shadow state that `ShadowApply` of the whole frame gives, and changes nothing else. -/
def Obligations.FrameTakenBytewiseIsShadowApply : Prop :=
  ∀ (s : State) (b : Byte) (payload : List Byte), s.resetIn = none → s.rx = rxBetween → s.bus = b :: payload →
    s.params.addrModePageSeq.bytes = [0x20#8, 0x02#8] →
    s.params.entireOnIgnoreRam = 0xA5#8 →
    ∃ k, Host.Core.run Sys2Proof.core k s =
      .next { s with bus := [], shadow := shadowApply s.params (b :: payload) s.shadow }

/-- R84, R98, R181: CTRL_COMMAND and CTRL_DATA choose the kind of the payload that follows; a frame that is
over is left; a COMMAND payload of class K6 has its effect at once (log entry 16). -/
def Obligations.ControlBytesBeginAPayload : Prop :=
  ∀ s : State,
    (s.bus = [] → exec .ctrlCommand s = .next { s with rx := { mode := .between, low := none } } ∧
      exec .ctrlData s = .next { s with rx := { mode := .between, low := none } }) ∧
    (s.bus ≠ [] → exec .ctrlData s = .next { s with rx := { mode := .data, low := none } }) ∧
    (s.bus ≠ [] → classify s.params s.bus ≠ .k6 →
      exec .ctrlCommand s = .next { s with rx := { mode := .command, low := none } }) ∧
    (classify s.params s.bus = .k6 →
      exec .ctrlCommand s = .next { s with
        shadow := applyCommand s.params s.bus s.shadow, bus := [], rx := { mode := .between, low := none } })

/-- R189, R191, R192 for one byte: DATA_BYTE answers a next state in every state, under every parameter setting. At
a pointer that names a cell it lands there; short of column 127 the column advances by one; at column 127 the
pointer is unknown, or, with `page_mode_wrap` in mode PAGE, the column is 0 (log entry 21). At a pointer that names
no cell everything but the mode is unknown. -/
def Obligations.DataByteLandsAndAdvances : Prop :=
  ∀ (s : State) (d : Byte),
    ∃ t, exec (.dataByte d) s = .next t ∧ t.shadow.mode = s.shadow.mode ∧
      (∀ (page : BitVec 3) (col : BitVec 7), pointsAt s.params s.shadow page col →
        (∀ a, memRead t.shadow.ram a =
          if a = page.toNat * 128 + col.toNat then some d else memRead s.shadow.ram a) ∧
        (col ≠ 127#7 → t.shadow.page = some page ∧ t.shadow.col = some (col + 1#7)) ∧
        (col = 127#7 →
          if s.params.wrapRule = .pageModeWrap ∧ s.shadow.mode = some .page then
            t.shadow.page = some page ∧ t.shadow.col = some 0#7
          else t.shadow.page = none ∧ t.shadow.col = none)) ∧
      (pointsNowhere s.params s.shadow →
        t.shadow = { page := none, col := none, mode := s.shadow.mode, ram := [] })

/-- R183: CMD_PAGE_START in every state (as an instruction by itself: log entry 14). -/
def Obligations.PageStartCommandSetsThePage : Prop :=
  ∀ (s : State) (page : BitVec 3),
    ∃ t, exec (.cmdPageStart page) s = .next t ∧
      t.shadow = { s.shadow with
        page := some page, col := if s.params.pageSetKeepsColumn then s.shadow.col else none }

/-- R185, R187: CMD_COL_LOW leaves the column half-set; CMD_COL_HIGH as its next instruction in the same frame
sets it to `(high << 4) | low`; CMD_COL_HIGH with no low nibble before it leaves it unknown. Page, mode and
RAM are unchanged throughout (log entries 14 and 15). -/
def Obligations.NibblePairSetsTheColumn : Prop :=
  (∀ (s : State) (low : BitVec 4), ∃ t, exec (.cmdColLow low) s = .next t ∧
    t.shadow = { s.shadow with col := none } ∧
    (s.bus ≠ [] → ∀ (high : BitVec 3) (rest : List Byte), ∃ u,
      exec (.cmdColHigh high) { t with bus := rest } = .next u ∧
      u.shadow = { s.shadow with col := some (high ++ low) })) ∧
  ∀ (s : State) (high : BitVec 3), s.rx.low = none → ∃ t, exec (.cmdColHigh high) s = .next t ∧
    t.shadow = { s.shadow with col := none }

/-- R186, of which it is the first effect: CMD_ADDR_MODE_PAGE in every state. That it has this effect as an instruction
by itself is log entry 14 (DESIGN CHOICE): R186 gives the whole sequence, and the two bytes alone as a whole payload
are class K6 by R182, which CTRL_COMMAND takes (log entry 16). -/
def Obligations.AddrModeCommandSelectsPageMode : Prop :=
  ∀ s : State, ∃ t, exec .cmdAddrModePage s = .next t ∧ t.shadow = { s.shadow with mode := some .page }

/-- R193, R194: the entire-on commands and the commands of `INIT_SEQ` answer a next state in every state and
write nothing of the shadow state; the frame is over where no byte of it is left. That a command of `INIT_SEQ` has
this effect as an instruction by itself rests on log entries 14 and 25 (the spec's own inference D18 about the whole
sequence): one of them alone as a whole payload is class K6 by R182, which CTRL_COMMAND takes (log entry 16). -/
def Obligations.PanelCommandsWriteNothing : Prop :=
  ∀ (s : State) (i : Instr),
    i ∈ [Instr.cmdEntireOnResume, .cmdEntireOnIgnoreRam, .cmdDisplayOff, .cmdMuxRatio, .cmdDisplayOffset,
      .cmdStartLine0, .cmdSegmentRemap0, .cmdComScanNormal, .cmdComPins, .cmdContrast, .cmdNormalDisplay,
      .cmdClockDiv, .cmdChargePump, .cmdDisplayOnPanel] →
    exec i s = .next { s with
      rx := if s.bus = [] then { mode := .between, low := none } else { mode := s.rx.mode, low := none } }

/-- R10, R20, R30: the controller is passive: an instruction of the bus changes nothing the block holds, no
input but the frame it is taken from, and no record. -/
def Obligations.BusInstructionsTouchOnlyTheController : Prop :=
  ∀ (i : Instr) (s t : State), isRequest i = false → exec i s = .next t →
    ∃ (shadow : Shadow) (bus : List Byte) (rx : Rx), (bus = s.bus ∨ bus = []) ∧
      t = { s with shadow := shadow, bus := bus, rx := rx }
end

