-- ==== Sys2Proof/Laws/Decode.lean ====
section
/-! SUPPORT. The laws of the bytes on the request port: a number and its bytes, and that every request that is read is well formed. -/

namespace Sys2Proof

open Sys2Proof.Machine

@[simp] theorem length_toBytes (n v : Nat) : (toBytes n v).length = n := by
  induction n generalizing v with
  | zero => rfl
  | succ n ih => simp [toBytes, ih]

/-- `n` bytes name a number below `256 ^ n`. -/
theorem ofBytes_lt (bs : List Byte) : ofBytes bs < 256 ^ bs.length := by
  induction bs with
  | nil => simp [ofBytes]
  | cons b rest ih =>
    have hb := b.isLt
    simp only [ofBytes, List.length_cons, Nat.pow_succ]
    omega

/-- The bytes of a number give it back, as far as they reach. -/
theorem ofBytes_toBytes (n v : Nat) : ofBytes (toBytes n v) = v % 256 ^ n := by
  induction n generalizing v with
  | zero => simp [toBytes, ofBytes, Nat.mod_one]
  | succ n ih =>
    rw [toBytes, ofBytes, ih, Nat.pow_succ, Nat.mul_comm (256 ^ n) 256, Nat.mod_mul]
    rfl

/-- Bytes are those of the number they name. -/
theorem toBytes_ofBytes (bs : List Byte) : toBytes bs.length (ofBytes bs) = bs := by
  induction bs with
  | nil => rfl
  | cons b rest ih =>
    have hb := b.isLt
    have hd : (b.toNat + 256 * ofBytes rest) / 256 = ofBytes rest := by omega
    have hm : BitVec.ofNat 8 (b.toNat + 256 * ofBytes rest) = b := by
      apply BitVec.eq_of_toNat_eq
      simp only [BitVec.toNat_ofNat]
      omega
    rw [List.length_cons, ofBytes, toBytes, hd, hm, ih]

/-- The fields of a request are those it is made of. -/
theorem requestOf_requestFields (op : BitVec 4) (r : ReqArgs) : (requestOf op r).requestFields = some r := by
  unfold requestOf
  simp only [apply_ite Instr.requestFields]
  simp only [Instr.requestFields, ite_self]

theorem requestOf_format (op : BitVec 4) (r : ReqArgs) : (requestOf op r).format = .req := by
  unfold requestOf
  simp only [apply_ite Instr.format]
  simp only [Instr.format, ite_self]

/-- What is read once the fixed part is: a request with the fields of that part. -/
theorem decodeBody_requestFields {op : BitVec 4} {f : ReqArgs} {rest after : List Byte} {i : Instr}
    (h : decodeBody op f rest = .ok (i, after)) : i.format = .req ∧ i.requestFields = some f := by
  have hsend : ∀ make : SendArgs → Instr, (∀ r, (make r).format = .req ∧
      (make r).requestFields = some { arg0 := r.arg0, arg1 := r.arg1, plen := r.payload.length }) →
      decodeSend make f rest = .ok (i, after) → i.format = .req ∧ i.requestFields = some f := by
    intro make hmake hd
    unfold decodeSend at hd
    split at hd
    · cases hd
    · rename_i hl
      cases hd
      refine ⟨(hmake _).1, ?_⟩
      rw [(hmake _).2]
      simp [List.length_take, Nat.min_eq_left (Nat.le_of_not_lt hl)]
  unfold decodeBody at h
  split at h
  · exact hsend _ (fun _ => ⟨rfl, rfl⟩) h
  · split at h
    · exact hsend _ (fun _ => ⟨rfl, rfl⟩) h
    · cases h
      exact ⟨requestOf_format op f, requestOf_requestFields op f⟩

/-- Every request that is read is a request whose fields fit their widths (R80). -/
theorem decodeRequest_wellFormed {p : Params} {bs rest : List Byte} {i : Instr}
    (h : decodeRequest p bs = .ok (i, rest)) : i.format = .req ∧ i.wellFormed p = true := by
  unfold decodeRequest at h
  split at h
  · cases h
  · obtain ⟨hf, hr⟩ := decodeBody_requestFields h
    refine ⟨hf, ?_⟩
    have hpow : ∀ n : Nat, 0 < 2 ^ n := fun n => Nat.pow_pos (by decide)
    simp [Instr.wellFormed, hr, FieldWidth.fits, arg0Of, arg1Of, Nat.mod_lt, hpow]

end Sys2Proof
end

