-- ==== Sys2Proof/Laws/Memory.lean ====
section
/-! SUPPORT. The laws of the RAM list: read after write, and that every operation keeps the canonical form. -/

namespace Sys2Proof.Machine

/-! ### Reading -/

@[simp] theorem memRead_nil (a : Nat) : memRead [] a = none := rfl

theorem memRead_cons (b : Nat) (v : Byte) (m : Memory) (a : Nat) :
    memRead ((b, v) :: m) a = if a = b then some v else memRead m a := rfl

/-- A read after a write: the byte at the address written, the old cell elsewhere. -/
@[simp] theorem memRead_memWrite (m : Memory) (a x : Nat) (v : Byte) :
    memRead (memWrite m a v) x = if x = a then some v else memRead m x := by
  induction m with
  | nil => simp [memWrite, memRead_cons]
  | cons cell rest ih =>
    obtain ⟨b, w⟩ := cell
    simp only [memWrite]
    split
    · simp only [memRead_cons]
    · split
      · subst b
        simp only [memRead_cons]
        split <;> rfl
      · simp only [memRead_cons, ih]
        by_cases hb : x = b <;> by_cases ha : x = a <;> simp_all

/-- A read after making a cell unknown. -/
@[simp] theorem memRead_memForget (m : Memory) (a x : Nat) :
    memRead (memForget m a) x = if x = a then none else memRead m x := by
  induction m with
  | nil => simp [memForget]
  | cons cell rest ih =>
    obtain ⟨b, w⟩ := cell
    simp only [memForget] at ih
    by_cases hb : b = a
    · subst hb
      simp only [memForget, List.filter_cons, ne_eq, not_true_eq_false, decide_false, Bool.false_eq_true, if_false, ih,
        memRead_cons]
      split <;> rfl
    · simp only [memForget, List.filter_cons, ne_eq, hb, not_false_eq_true, decide_true, if_true, memRead_cons, ih]
      by_cases hx : x = b <;> by_cases ha : x = a <;> simp_all

/-- What a run of bytes leaves at an address: the byte that lands there, else the old cell. -/
theorem memRead_memWriteRun (d : List Byte) (m : Memory) (a x : Nat) :
    memRead (memWriteRun m a d) x = if a ≤ x ∧ x < a + d.length then d[x - a]? else memRead m x := by
  induction d generalizing m a with
  | nil =>
    have h : ¬ (a ≤ x ∧ x < a + 0) := by omega
    simp only [memWriteRun, List.length_nil, h, if_false]
  | cons v vs ih =>
    simp only [memWriteRun, ih, memRead_memWrite, List.length_cons]
    by_cases h1 : a + 1 ≤ x ∧ x < a + 1 + vs.length
    · have h2 : a ≤ x ∧ x < a + (vs.length + 1) := by omega
      have h3 : x - a = (x - (a + 1)) + 1 := by omega
      simp only [h1, h2, and_self, if_true, h3, List.getElem?_cons_succ]
    · by_cases h4 : x = a
      · subst h4
        simp only [h1, if_false, if_true]
        simp
      · have h2 : ¬ (a ≤ x ∧ x < a + (vs.length + 1)) := by omega
        simp only [h1, h2, if_false, h4]

/-- What making `n` cells unknown leaves at an address. -/
theorem memRead_memForgetRun (n : Nat) (m : Memory) (a x : Nat) :
    memRead (memForgetRun m a n) x = if a ≤ x ∧ x < a + n then none else memRead m x := by
  induction n generalizing m a with
  | zero =>
    have h : ¬ (a ≤ x ∧ x < a + 0) := by omega
    simp only [memForgetRun, h, if_false]
  | succ n ih =>
    simp only [memForgetRun, ih, memRead_memForget]
    by_cases h1 : a + 1 ≤ x ∧ x < a + 1 + n
    · have h2 : a ≤ x ∧ x < a + (n + 1) := by omega
      simp only [h1, h2, and_self, if_true]
    · by_cases h4 : x = a
      · subst h4
        simp
      · have h2 : ¬ (a ≤ x ∧ x < a + (n + 1)) := by omega
        simp only [h1, h2, if_false, h4]

/-! ### The canonical form -/

theorem memWfFrom_weaken {lo lo' : Nat} {m : Memory} (h : memWfFrom lo m = true) (hl : lo' ≤ lo) :
    memWfFrom lo' m = true := by
  cases m with
  | nil => rfl
  | cons cell rest =>
    simp only [memWfFrom, Bool.and_eq_true, decide_eq_true_eq] at h ⊢
    exact ⟨⟨by omega, h.1.2⟩, h.2⟩

theorem memWfFrom_memWrite {lo a : Nat} {v : Byte} {m : Memory} (h : memWfFrom lo m = true) (hl : lo ≤ a)
    (ha : a < ramSize) : memWfFrom lo (memWrite m a v) = true := by
  induction m generalizing lo with
  | nil => simp [memWrite, memWfFrom, hl, ha]
  | cons cell rest ih =>
    obtain ⟨b, w⟩ := cell
    simp only [memWfFrom, Bool.and_eq_true, decide_eq_true_eq] at h
    simp only [memWrite]
    split
    · simp only [memWfFrom, Bool.and_eq_true, decide_eq_true_eq]
      exact ⟨⟨hl, ha⟩, ⟨by omega, h.1.2⟩, h.2⟩
    · split
      · subst b
        simp only [memWfFrom, Bool.and_eq_true, decide_eq_true_eq]
        exact ⟨⟨hl, ha⟩, h.2⟩
      · simp only [memWfFrom, Bool.and_eq_true, decide_eq_true_eq]
        exact ⟨h.1, ih h.2 (by omega)⟩

/-- Storing a byte keeps the canonical form. -/
theorem wf_memWrite {m : Memory} {a : Nat} {v : Byte} (h : Memory.wf m = true) (ha : a < ramSize) :
    Memory.wf (memWrite m a v) = true := memWfFrom_memWrite h (Nat.zero_le a) ha

theorem memWfFrom_memForget {lo a : Nat} {m : Memory} (h : memWfFrom lo m = true) :
    memWfFrom lo (memForget m a) = true := by
  induction m generalizing lo with
  | nil => rfl
  | cons cell rest ih =>
    obtain ⟨b, w⟩ := cell
    simp only [memWfFrom, Bool.and_eq_true, decide_eq_true_eq] at h
    simp only [memForget, List.filter_cons] at ih ⊢
    split
    · simp only [memWfFrom, Bool.and_eq_true, decide_eq_true_eq]
      exact ⟨h.1, ih h.2⟩
    · exact memWfFrom_weaken (ih h.2) (by omega)

/-- Making a cell unknown keeps the canonical form. -/
theorem wf_memForget {m : Memory} {a : Nat} (h : Memory.wf m = true) : Memory.wf (memForget m a) = true :=
  memWfFrom_memForget h

/-- A run of bytes that stays in the RAM keeps the canonical form. -/
theorem wf_memWriteRun {d : List Byte} {m : Memory} {a : Nat} (h : Memory.wf m = true)
    (ha : a + d.length ≤ ramSize) : Memory.wf (memWriteRun m a d) = true := by
  induction d generalizing m a with
  | nil => exact h
  | cons v vs ih =>
    simp only [List.length_cons] at ha
    exact ih (wf_memWrite h (by omega)) (by omega)

/-- Making a run of cells unknown keeps the canonical form. -/
theorem wf_memForgetRun {n : Nat} {m : Memory} {a : Nat} (h : Memory.wf m = true) :
    Memory.wf (memForgetRun m a n) = true := by
  induction n generalizing m a with
  | zero => exact h
  | succ n ih => exact ih (wf_memForget h)

/-- Every cell address lies in the RAM. -/
theorem cellAddr_lt (page : BitVec 3) {c : Nat} (hc : c < columnCount) : cellAddr page c < ramSize := by
  have := page.isLt
  simp only [cellAddr, ramSize, pageCount, columnCount] at *
  omega

/-- A run that wraps on its page keeps the canonical form. -/
theorem wf_memWriteWrapped {d : List Byte} {m : Memory} {page : BitVec 3} {c : Nat} (h : Memory.wf m = true) :
    Memory.wf (memWriteWrapped m page c d) = true := by
  induction d generalizing m c with
  | nil => exact h
  | cons v vs ih => exact ih (wf_memWrite h (cellAddr_lt page (Nat.mod_lt _ (by decide))))

theorem memWfFrom_memTabulate {f : Nat → Option Byte} {n lo : Nat} (h : lo + n ≤ ramSize) :
    memWfFrom lo (memTabulate f lo n) = true := by
  induction n generalizing lo with
  | zero => rfl
  | succ n ih =>
    simp only [memTabulate]
    split
    · simp only [memWfFrom, Bool.and_eq_true, decide_eq_true_eq]
      exact ⟨⟨Nat.le_refl _, by omega⟩, ih (by omega)⟩
    · exact memWfFrom_weaken (ih (by omega)) (by omega)

/-- A tabulated RAM has the canonical form. -/
theorem wf_memTabulate (f : Nat → Option Byte) : Memory.wf (memTabulate f 0 ramSize) = true :=
  memWfFrom_memTabulate (by omega)

end Sys2Proof.Machine
end

