-- ==== Sys2Proof/Laws/Pointer.lean ====
section
/-! SUPPORT. The laws of the shadow state machine: the bytes of each command, the classes, and that every effect keeps the RAM's canonical form. -/

namespace Sys2Proof.Machine

/-! ### Command bytes -/

/-- The page-start bytes are those of the encoding `10110ppp` (R85, R182). -/
theorem pageOfByte_eq_some {b : Byte} {page : BitVec 3} : pageOfByte b = some page ↔ b = 0b10110#5 ++ page := by
  revert b page
  decide

theorem pageOfByte_append (page : BitVec 3) : pageOfByte (0b10110#5 ++ page) = some page :=
  pageOfByte_eq_some.mpr rfl

/-- The lower nibble bytes are those of the encoding `0000llll` (R86, R182). -/
theorem colLow_iff (l : Byte) : l &&& 0xF0#8 = colLowBase ↔ l = 0x0#4 ++ l.extractLsb' 0 4 := by
  revert l
  decide

/-- The higher nibble bytes are those of the encoding `00010hhh` (R87, R182). -/
theorem colHigh_iff (h : Byte) : h &&& 0xF8#8 = colHighBase ↔ h = 0b00010#5 ++ h.extractLsb' 0 3 := by
  revert h
  decide

theorem low_of_append (low : BitVec 4) : (0x0#4 ++ low).extractLsb' 0 4 = low := by
  revert low
  decide

theorem high_of_append (high : BitVec 3) : (0b00010#5 ++ high).extractLsb' 0 3 = high := by
  revert high
  decide

/-- The pairs that name a column are those of the two encodings, low first (R182, R185). -/
theorem colOfPair_eq_some {l h : Byte} {col : BitVec 7} :
    colOfPair l h = some col ↔
      ∃ (high : BitVec 3) (low : BitVec 4), l = 0x0#4 ++ low ∧ h = 0b00010#5 ++ high ∧ col = high ++ low := by
  unfold colOfPair
  simp only [colLow_iff, colHigh_iff]
  constructor
  · intro hc
    split at hc
    · rename_i hb
      exact ⟨_, _, hb.1, hb.2, (Option.some.inj hc).symm⟩
    · cases hc
  · rintro ⟨high, low, rfl, rfl, rfl⟩
    simp only [low_of_append, high_of_append, and_self, if_true, colOfNibbles]

theorem colOfPair_append (high : BitVec 3) (low : BitVec 4) :
    colOfPair (0x0#4 ++ low) (0b00010#5 ++ high) = some (high ++ low) :=
  colOfPair_eq_some.mpr ⟨high, low, rfl, rfl, rfl⟩

/-- The page-start byte of a page in range (R85, R92). -/
theorem pageStartByte_eq : ∀ page < 8, pageStartByte page = 0b10110#5 ++ BitVec.ofNat 3 page := by decide

/-- The lower nibble byte of a column in range (R86, R93). -/
theorem colLowByte_eq : ∀ column < 128, colLowByte column = 0x0#4 ++ BitVec.ofNat 4 column := by decide

/-- The higher nibble byte of a column in range (R87, R93). -/
theorem colHighByte_eq : ∀ column < 128, colHighByte column = 0b00010#5 ++ BitVec.ofNat 3 (column / 16) := by decide

/-- The two nibbles of a column give it back (R93). -/
theorem nibbles_append : ∀ column < 128,
    BitVec.ofNat 3 (column / 16) ++ BitVec.ofNat 4 column = BitVec.ofNat 7 column := by decide

/-! ### Classes (R182) -/

theorem classify_nil (p : Params) : classify p [] = .k0 := rfl

theorem classify_pageStart (p : Params) (page : BitVec 3) : classify p [0b10110#5 ++ page] = .k1 page := by
  simp only [classify, matchPageStart, pageOfByte_append, List.isEmpty_cons, Bool.false_eq_true, if_false]

theorem classify_column (p : Params) (high : BitVec 3) (low : BitVec 4) :
    classify p [0x0#4 ++ low, 0b00010#5 ++ high] = .k2 (high ++ low) := by
  simp only [classify, matchPageStart, matchColumn, colOfPair_append, List.isEmpty_cons, Bool.false_eq_true, if_false]

theorem matchPageMode_eq_some {p : Params} {c : List Byte} {page : BitVec 3} {col : BitVec 7} :
    matchPageMode p c = some (page, col) ↔
      ∃ (high : BitVec 3) (low : BitVec 4),
        c = p.addrModePageSeq.bytes ++ [0b10110#5 ++ page, 0x0#4 ++ low, 0b00010#5 ++ high] ∧ col = high ++ low := by
  unfold matchPageMode
  constructor
  · intro h
    split at h
    · rename_i hp
      obtain ⟨tail, ht⟩ := List.isPrefixOf_iff_prefix.mp hp
      subst ht
      simp only [List.drop_left] at h
      unfold pageModeTail at h
      split at h
      · split at h
        · rename_i hpage hcol
          obtain ⟨high, low, rfl, rfl, rfl⟩ := colOfPair_eq_some.mp hcol
          cases pageOfByte_eq_some.mp hpage
          cases h
          exact ⟨high, low, rfl, rfl⟩
        · cases h
      · cases h
    · cases h
  · rintro ⟨high, low, rfl, rfl⟩
    have hp : p.addrModePageSeq.bytes.isPrefixOf
        (p.addrModePageSeq.bytes ++ [0b10110#5 ++ page, 0x0#4 ++ low, 0b00010#5 ++ high]) = true :=
      List.isPrefixOf_iff_prefix.mpr (List.prefix_append _ _)
    simp only [hp, if_true, List.drop_left, pageModeTail, pageOfByte_append, colOfPair_append]

theorem matchPageStart_eq_none_of_length {c : List Byte} (h : c.length ≠ 1) : matchPageStart c = none := by
  unfold matchPageStart
  split
  · simp at h
  · rfl

theorem matchColumn_eq_none_of_length {c : List Byte} (h : c.length ≠ 2) : matchColumn c = none := by
  unfold matchColumn
  split
  · simp at h
  · rfl

theorem matchPageMode_eq_none_of_length {p : Params} {c : List Byte} (h : c.length < 3) : matchPageMode p c = none := by
  cases hm : matchPageMode p c with
  | none => rfl
  | some pc =>
    obtain ⟨page, col⟩ := pc
    obtain ⟨high, low, rfl, -⟩ := matchPageMode_eq_some.mp hm
    simp only [List.length_append, List.length_cons, List.length_nil] at h
    omega

theorem classify_pageMode (p : Params) (page high : BitVec 3) (low : BitVec 4) :
    classify p (p.addrModePageSeq.bytes ++ [0b10110#5 ++ page, 0x0#4 ++ low, 0b00010#5 ++ high]) =
      .k3 page (high ++ low) := by
  have hm := (matchPageMode_eq_some (p := p) (page := page)).mpr ⟨high, low, rfl, rfl⟩
  have hl : (p.addrModePageSeq.bytes ++ [0b10110#5 ++ page, 0x0#4 ++ low, 0b00010#5 ++ high]).length =
      p.addrModePageSeq.bytes.length + 3 := by simp
  unfold classify
  rw [matchPageStart_eq_none_of_length (by omega), matchColumn_eq_none_of_length (by omega), hm]
  simp

/-- A single byte that is no page-start byte and is one of the two entire-on bytes (class K4). -/
theorem classify_entireOn (p : Params) {b : Byte} (hb : b = entireOnResume ∨ b = p.entireOnIgnoreRam)
    (hp : b &&& 0xF8#8 ≠ pageStartBase) : classify p [b] = .k4 := by
  unfold classify
  rw [matchColumn_eq_none_of_length (by simp), matchPageMode_eq_none_of_length (by simp)]
  have h1 : matchPageStart [b] = none := by simp only [matchPageStart, pageOfByte, hp, if_false]
  rw [h1]
  have h2 : [b] = [entireOnResume] ∨ [b] = [p.entireOnIgnoreRam] := by
    rcases hb with h | h <;> simp [h]
  simp only [List.isEmpty_cons, Bool.false_eq_true, if_false, h2, if_true]

theorem matchPageMode_initSeq (p : Params) : matchPageMode p initSeq = none := by
  cases hm : matchPageMode p initSeq with
  | none => rfl
  | some pc =>
    obtain ⟨page, col⟩ := pc
    obtain ⟨high, low, h, -⟩ := matchPageMode_eq_some.mp hm
    have hl := congrArg List.length h
    have hd := congrArg (List.drop 16) h
    have h16 : p.addrModePageSeq.bytes.length = 16 := by
      simp [initSeq] at hl
      omega
    rw [← h16, List.drop_left] at hd
    simp only [h16, initSeq, List.drop_succ_cons, List.drop_zero, List.cons.injEq] at hd
    have hne : ∀ q : BitVec 3, ¬ (0x8D#8 = 0b10110#5 ++ q) := by decide
    exact absurd hd.1 (hne page)

theorem classify_initSeq (p : Params) : classify p initSeq = .k5 := by
  unfold classify
  rw [matchPageStart_eq_none_of_length (by decide), matchColumn_eq_none_of_length (by decide), matchPageMode_initSeq]
  simp [initSeq]

/-! ### The canonical form of the RAM -/

theorem wf_shadowOther (p : Params) (c : List Byte) (sh : Shadow) : Memory.wf (shadowOther p c sh).ram = true := by
  unfold shadowOther
  split
  · rfl
  · exact wf_memTabulate _

theorem wf_applyCommand {p : Params} {c : List Byte} {sh : Shadow} (h : Memory.wf sh.ram = true) :
    Memory.wf (applyCommand p c sh).ram = true := by
  unfold applyCommand
  split <;> first | exact h | exact wf_shadowOther p c sh

theorem wf_applyData {p : Params} {d : List Byte} {sh : Shadow} (h : Memory.wf sh.ram = true) :
    Memory.wf (applyData p d sh).ram = true := by
  unfold applyData
  split
  · exact h
  · split
    · rfl
    · rename_i page col _
      have hc := col.isLt
      have hp := page.isLt
      split
      · apply wf_memWriteRun h
        simp only [cellAddr, ramSize, pageCount, columnCount] at *
        omega
      · unfold shadowRowEnd
        split
        · exact wf_memWriteWrapped h
        · dsimp only
          split
          · rfl
          · apply wf_memWriteRun h
            simp only [cellAddr, ramSize, pageCount, columnCount, List.length_take] at *
            omega

theorem wf_shadowApply {p : Params} {frame : List Byte} {sh : Shadow} (h : Memory.wf sh.ram = true) :
    Memory.wf (shadowApply p frame sh).ram = true := by
  unfold shadowApply
  split
  · exact h
  · split
    · exact wf_applyCommand h
    · split
      · exact wf_applyData h
      · exact h

theorem wf_shadowFail {p : Params} {frame : List Byte} {sh : Shadow} (h : Memory.wf sh.ram = true) :
    Memory.wf (shadowFail p frame sh).ram = true := by
  unfold shadowFail
  dsimp only
  split
  · exact h
  · split
    · unfold failedCommandRam
      split
      · rfl
      · exact h
    · split
      · unfold failedDataRam
        split
        · exact h
        · split
          · split
            · exact wf_memForgetRun h
            · rfl
          · rfl
      · exact h

end Sys2Proof.Machine
end

