-- ==== Sys2Proof/Laws/State.lean ====
section
/-! SUPPORT. One lemma per field per update of the state, each true by rfl, so that no proof unfolds a record update. -/

namespace Sys2Proof.Machine

/-! ### buildFrame: building a frame -/

@[simp] theorem buildFrame_params (frame : List Byte) (s : State) : (buildFrame frame s).params = s.params := rfl
@[simp] theorem buildFrame_addrSel (frame : List Byte) (s : State) : (buildFrame frame s).addrSel = s.addrSel := rfl
@[simp] theorem buildFrame_txbuf (frame : List Byte) (s : State) : (buildFrame frame s).txbuf = txFill 0 frame s.txbuf := rfl
@[simp] theorem buildFrame_txlen (frame : List Byte) (s : State) : (buildFrame frame s).txlen = BitVec.ofNat 8 frame.length := rfl
@[simp] theorem buildFrame_op (frame : List Byte) (s : State) : (buildFrame frame s).op = s.op := rfl
@[simp] theorem buildFrame_arg0 (frame : List Byte) (s : State) : (buildFrame frame s).arg0 = s.arg0 := rfl
@[simp] theorem buildFrame_arg1 (frame : List Byte) (s : State) : (buildFrame frame s).arg1 = s.arg1 := rfl
@[simp] theorem buildFrame_plen (frame : List Byte) (s : State) : (buildFrame frame s).plen = s.plen := rfl
@[simp] theorem buildFrame_payload (frame : List Byte) (s : State) : (buildFrame frame s).payload = [] := rfl
@[simp] theorem buildFrame_phase (frame : List Byte) (s : State) : (buildFrame frame s).phase = s.phase := rfl
@[simp] theorem buildFrame_seq (frame : List Byte) (s : State) : (buildFrame frame s).seq = s.seq := rfl
@[simp] theorem buildFrame_status (frame : List Byte) (s : State) : (buildFrame frame s).status = s.status := rfl
@[simp] theorem buildFrame_terr (frame : List Byte) (s : State) : (buildFrame frame s).terr = s.terr := rfl
@[simp] theorem buildFrame_log (frame : List Byte) (s : State) : (buildFrame frame s).log = s.log := rfl
@[simp] theorem buildFrame_shadow (frame : List Byte) (s : State) : (buildFrame frame s).shadow = s.shadow := rfl
@[simp] theorem buildFrame_hostIn (frame : List Byte) (s : State) : (buildFrame frame s).hostIn = s.hostIn := rfl
@[simp] theorem buildFrame_answers (frame : List Byte) (s : State) : (buildFrame frame s).answers = s.answers := rfl
@[simp] theorem buildFrame_answerNo (frame : List Byte) (s : State) : (buildFrame frame s).answerNo = s.answerNo := rfl
@[simp] theorem buildFrame_bus (frame : List Byte) (s : State) : (buildFrame frame s).bus = s.bus := rfl
@[simp] theorem buildFrame_rx (frame : List Byte) (s : State) : (buildFrame frame s).rx = s.rx := rfl
@[simp] theorem buildFrame_resetIn (frame : List Byte) (s : State) : (buildFrame frame s).resetIn = s.resetIn := rfl

/-! ### useAnswer: the transport's turn -/

@[simp] theorem useAnswer_params (s : State) : (useAnswer s).params = s.params := rfl
@[simp] theorem useAnswer_addrSel (s : State) : (useAnswer s).addrSel = s.addrSel := rfl
@[simp] theorem useAnswer_txbuf (s : State) : (useAnswer s).txbuf = s.txbuf := rfl
@[simp] theorem useAnswer_txlen (s : State) : (useAnswer s).txlen = s.txlen := rfl
@[simp] theorem useAnswer_op (s : State) : (useAnswer s).op = s.op := rfl
@[simp] theorem useAnswer_arg0 (s : State) : (useAnswer s).arg0 = s.arg0 := rfl
@[simp] theorem useAnswer_arg1 (s : State) : (useAnswer s).arg1 = s.arg1 := rfl
@[simp] theorem useAnswer_plen (s : State) : (useAnswer s).plen = s.plen := rfl
@[simp] theorem useAnswer_payload (s : State) : (useAnswer s).payload = s.payload := rfl
@[simp] theorem useAnswer_phase (s : State) : (useAnswer s).phase = s.phase := rfl
@[simp] theorem useAnswer_seq (s : State) : (useAnswer s).seq = s.seq := rfl
@[simp] theorem useAnswer_status (s : State) : (useAnswer s).status = s.status := rfl
@[simp] theorem useAnswer_terr (s : State) : (useAnswer s).terr = s.terr := rfl
@[simp] theorem useAnswer_log (s : State) : (useAnswer s).log = s.log := rfl
@[simp] theorem useAnswer_shadow (s : State) : (useAnswer s).shadow = s.shadow := rfl
@[simp] theorem useAnswer_hostIn (s : State) : (useAnswer s).hostIn = s.hostIn := rfl
@[simp] theorem useAnswer_answers (s : State) : (useAnswer s).answers = s.answers.tail := rfl
@[simp] theorem useAnswer_answerNo (s : State) : (useAnswer s).answerNo = s.answerNo + 1 := rfl
@[simp] theorem useAnswer_bus (s : State) : (useAnswer s).bus = s.bus := rfl
@[simp] theorem useAnswer_rx (s : State) : (useAnswer s).rx = s.rx := rfl
@[simp] theorem useAnswer_resetIn (s : State) : (useAnswer s).resetIn = s.resetIn := rfl

/-! ### recordWrite: an answered write -/

@[simp] theorem recordWrite_params (a : Answer) (s : State) : (recordWrite a s).params = s.params := rfl
@[simp] theorem recordWrite_addrSel (a : Answer) (s : State) : (recordWrite a s).addrSel = s.addrSel := rfl
@[simp] theorem recordWrite_txbuf (a : Answer) (s : State) : (recordWrite a s).txbuf = s.txbuf := rfl
@[simp] theorem recordWrite_txlen (a : Answer) (s : State) : (recordWrite a s).txlen = s.txlen := rfl
@[simp] theorem recordWrite_op (a : Answer) (s : State) : (recordWrite a s).op = s.op := rfl
@[simp] theorem recordWrite_arg0 (a : Answer) (s : State) : (recordWrite a s).arg0 = s.arg0 := rfl
@[simp] theorem recordWrite_arg1 (a : Answer) (s : State) : (recordWrite a s).arg1 = s.arg1 := rfl
@[simp] theorem recordWrite_plen (a : Answer) (s : State) : (recordWrite a s).plen = s.plen := rfl
@[simp] theorem recordWrite_payload (a : Answer) (s : State) : (recordWrite a s).payload = s.payload := rfl
@[simp] theorem recordWrite_phase (a : Answer) (s : State) : (recordWrite a s).phase = s.phase := rfl
@[simp] theorem recordWrite_seq (a : Answer) (s : State) : (recordWrite a s).seq = s.seq := rfl
@[simp] theorem recordWrite_status (a : Answer) (s : State) : (recordWrite a s).status = s.status := rfl
@[simp] theorem recordWrite_terr (a : Answer) (s : State) : (recordWrite a s).terr = s.terr := rfl
@[simp] theorem recordWrite_log (a : Answer) (s : State) : (recordWrite a s).log = s.log ++ [{ addr := busAddr s.addrSel, bytes := builtFrame s, answer := a }] := rfl
@[simp] theorem recordWrite_hostIn (a : Answer) (s : State) : (recordWrite a s).hostIn = s.hostIn := rfl
@[simp] theorem recordWrite_answers (a : Answer) (s : State) : (recordWrite a s).answers = s.answers := rfl
@[simp] theorem recordWrite_answerNo (a : Answer) (s : State) : (recordWrite a s).answerNo = s.answerNo := rfl
@[simp] theorem recordWrite_bus (a : Answer) (s : State) : (recordWrite a s).bus = s.bus := rfl
@[simp] theorem recordWrite_rx (a : Answer) (s : State) : (recordWrite a s).rx = s.rx := rfl
@[simp] theorem recordWrite_resetIn (a : Answer) (s : State) : (recordWrite a s).resetIn = s.resetIn := rfl

/-! ### respond: a response -/

@[simp] theorem respond_params (st : Status) (s : State) : (respond st s).params = s.params := rfl
@[simp] theorem respond_addrSel (st : Status) (s : State) : (respond st s).addrSel = s.addrSel := rfl
@[simp] theorem respond_txbuf (st : Status) (s : State) : (respond st s).txbuf = s.txbuf := rfl
@[simp] theorem respond_txlen (st : Status) (s : State) : (respond st s).txlen = s.txlen := rfl
@[simp] theorem respond_op (st : Status) (s : State) : (respond st s).op = s.op := rfl
@[simp] theorem respond_arg0 (st : Status) (s : State) : (respond st s).arg0 = s.arg0 := rfl
@[simp] theorem respond_arg1 (st : Status) (s : State) : (respond st s).arg1 = s.arg1 := rfl
@[simp] theorem respond_plen (st : Status) (s : State) : (respond st s).plen = s.plen := rfl
@[simp] theorem respond_payload (st : Status) (s : State) : (respond st s).payload = s.payload := rfl
@[simp] theorem respond_phase (st : Status) (s : State) : (respond st s).phase = .idle := rfl
@[simp] theorem respond_seq (st : Status) (s : State) : (respond st s).seq = s.seq := rfl
@[simp] theorem respond_status (st : Status) (s : State) : (respond st s).status = st := rfl
@[simp] theorem respond_terr (st : Status) (s : State) : (respond st s).terr = s.terr := rfl
@[simp] theorem respond_log (st : Status) (s : State) : (respond st s).log = s.log := rfl
@[simp] theorem respond_shadow (st : Status) (s : State) : (respond st s).shadow = s.shadow := rfl
@[simp] theorem respond_hostIn (st : Status) (s : State) : (respond st s).hostIn = s.hostIn := rfl
@[simp] theorem respond_answers (st : Status) (s : State) : (respond st s).answers = s.answers := rfl
@[simp] theorem respond_answerNo (st : Status) (s : State) : (respond st s).answerNo = s.answerNo := rfl
@[simp] theorem respond_bus (st : Status) (s : State) : (respond st s).bus = s.bus := rfl
@[simp] theorem respond_rx (st : Status) (s : State) : (respond st s).rx = s.rx := rfl
@[simp] theorem respond_resetIn (st : Status) (s : State) : (respond st s).resetIn = s.resetIn := rfl

/-! ### accept: accepting a request -/

@[simp] theorem accept_params (op : BitVec 4) (f : Fields) (s : State) : (accept op f s).params = s.params := rfl
@[simp] theorem accept_addrSel (op : BitVec 4) (f : Fields) (s : State) : (accept op f s).addrSel = s.addrSel := rfl
@[simp] theorem accept_txbuf (op : BitVec 4) (f : Fields) (s : State) : (accept op f s).txbuf = s.txbuf := rfl
@[simp] theorem accept_txlen (op : BitVec 4) (f : Fields) (s : State) : (accept op f s).txlen = s.txlen := rfl
@[simp] theorem accept_op (op : BitVec 4) (f : Fields) (s : State) : (accept op f s).op = op := rfl
@[simp] theorem accept_arg0 (op : BitVec 4) (f : Fields) (s : State) : (accept op f s).arg0 = f.arg0 := rfl
@[simp] theorem accept_arg1 (op : BitVec 4) (f : Fields) (s : State) : (accept op f s).arg1 = f.arg1 := rfl
@[simp] theorem accept_plen (op : BitVec 4) (f : Fields) (s : State) : (accept op f s).plen = f.plen := rfl
@[simp] theorem accept_payload (op : BitVec 4) (f : Fields) (s : State) : (accept op f s).payload = f.payload := rfl
@[simp] theorem accept_phase (op : BitVec 4) (f : Fields) (s : State) : (accept op f s).phase = .busy := rfl
@[simp] theorem accept_seq (op : BitVec 4) (f : Fields) (s : State) : (accept op f s).seq = 0#5 := rfl
@[simp] theorem accept_status (op : BitVec 4) (f : Fields) (s : State) : (accept op f s).status = s.status := rfl
@[simp] theorem accept_terr (op : BitVec 4) (f : Fields) (s : State) : (accept op f s).terr = s.terr := rfl
@[simp] theorem accept_log (op : BitVec 4) (f : Fields) (s : State) : (accept op f s).log = s.log := rfl
@[simp] theorem accept_shadow (op : BitVec 4) (f : Fields) (s : State) : (accept op f s).shadow = s.shadow := rfl
@[simp] theorem accept_hostIn (op : BitVec 4) (f : Fields) (s : State) : (accept op f s).hostIn = s.hostIn := rfl
@[simp] theorem accept_answers (op : BitVec 4) (f : Fields) (s : State) : (accept op f s).answers = s.answers := rfl
@[simp] theorem accept_answerNo (op : BitVec 4) (f : Fields) (s : State) : (accept op f s).answerNo = s.answerNo := rfl
@[simp] theorem accept_bus (op : BitVec 4) (f : Fields) (s : State) : (accept op f s).bus = s.bus := rfl
@[simp] theorem accept_rx (op : BitVec 4) (f : Fields) (s : State) : (accept op f s).rx = s.rx := rfl
@[simp] theorem accept_resetIn (op : BitVec 4) (f : Fields) (s : State) : (accept op f s).resetIn = s.resetIn := rfl

/-! ### construct: construction -/

@[simp] theorem construct_params (sel : AddrSel) (s : State) : (construct sel s).params = s.params := rfl
@[simp] theorem construct_addrSel (sel : AddrSel) (s : State) : (construct sel s).addrSel = sel := rfl
@[simp] theorem construct_txbuf (sel : AddrSel) (s : State) : (construct sel s).txbuf = s.txbuf := rfl
@[simp] theorem construct_txlen (sel : AddrSel) (s : State) : (construct sel s).txlen = s.txlen := rfl
@[simp] theorem construct_op (sel : AddrSel) (s : State) : (construct sel s).op = s.op := rfl
@[simp] theorem construct_arg0 (sel : AddrSel) (s : State) : (construct sel s).arg0 = s.arg0 := rfl
@[simp] theorem construct_arg1 (sel : AddrSel) (s : State) : (construct sel s).arg1 = s.arg1 := rfl
@[simp] theorem construct_plen (sel : AddrSel) (s : State) : (construct sel s).plen = s.plen := rfl
@[simp] theorem construct_payload (sel : AddrSel) (s : State) : (construct sel s).payload = s.payload := rfl
@[simp] theorem construct_phase (sel : AddrSel) (s : State) : (construct sel s).phase = .idle := rfl
@[simp] theorem construct_seq (sel : AddrSel) (s : State) : (construct sel s).seq = s.seq := rfl
@[simp] theorem construct_status (sel : AddrSel) (s : State) : (construct sel s).status = s.status := rfl
@[simp] theorem construct_terr (sel : AddrSel) (s : State) : (construct sel s).terr = s.terr := rfl
@[simp] theorem construct_log (sel : AddrSel) (s : State) : (construct sel s).log = [] := rfl
@[simp] theorem construct_shadow (sel : AddrSel) (s : State) : (construct sel s).shadow = unknownShadow := rfl
@[simp] theorem construct_hostIn (sel : AddrSel) (s : State) : (construct sel s).hostIn = s.hostIn := rfl
@[simp] theorem construct_answers (sel : AddrSel) (s : State) : (construct sel s).answers = s.answers := rfl
@[simp] theorem construct_answerNo (sel : AddrSel) (s : State) : (construct sel s).answerNo = s.answerNo := rfl
@[simp] theorem construct_bus (sel : AddrSel) (s : State) : (construct sel s).bus = s.bus := rfl
@[simp] theorem construct_rx (sel : AddrSel) (s : State) : (construct sel s).rx = s.rx := rfl
@[simp] theorem construct_resetIn (sel : AddrSel) (s : State) : (construct sel s).resetIn = none := rfl

/-! ### busDone: the end of a bus instruction -/

@[simp] theorem busDone_params (s : State) : (busDone s).params = s.params := rfl
@[simp] theorem busDone_addrSel (s : State) : (busDone s).addrSel = s.addrSel := rfl
@[simp] theorem busDone_txbuf (s : State) : (busDone s).txbuf = s.txbuf := rfl
@[simp] theorem busDone_txlen (s : State) : (busDone s).txlen = s.txlen := rfl
@[simp] theorem busDone_op (s : State) : (busDone s).op = s.op := rfl
@[simp] theorem busDone_arg0 (s : State) : (busDone s).arg0 = s.arg0 := rfl
@[simp] theorem busDone_arg1 (s : State) : (busDone s).arg1 = s.arg1 := rfl
@[simp] theorem busDone_plen (s : State) : (busDone s).plen = s.plen := rfl
@[simp] theorem busDone_payload (s : State) : (busDone s).payload = s.payload := rfl
@[simp] theorem busDone_phase (s : State) : (busDone s).phase = s.phase := rfl
@[simp] theorem busDone_seq (s : State) : (busDone s).seq = s.seq := rfl
@[simp] theorem busDone_status (s : State) : (busDone s).status = s.status := rfl
@[simp] theorem busDone_terr (s : State) : (busDone s).terr = s.terr := rfl
@[simp] theorem busDone_log (s : State) : (busDone s).log = s.log := rfl
@[simp] theorem busDone_shadow (s : State) : (busDone s).shadow = s.shadow := rfl
@[simp] theorem busDone_hostIn (s : State) : (busDone s).hostIn = s.hostIn := rfl
@[simp] theorem busDone_answers (s : State) : (busDone s).answers = s.answers := rfl
@[simp] theorem busDone_answerNo (s : State) : (busDone s).answerNo = s.answerNo := rfl
@[simp] theorem busDone_bus (s : State) : (busDone s).bus = s.bus := rfl
@[simp] theorem busDone_resetIn (s : State) : (busDone s).resetIn = s.resetIn := rfl

/-! ### busEffect: a bus instruction's effect -/

@[simp] theorem busEffect_params (f : Shadow → Shadow) (s : State) : (busEffect f s).params = s.params := rfl
@[simp] theorem busEffect_addrSel (f : Shadow → Shadow) (s : State) : (busEffect f s).addrSel = s.addrSel := rfl
@[simp] theorem busEffect_txbuf (f : Shadow → Shadow) (s : State) : (busEffect f s).txbuf = s.txbuf := rfl
@[simp] theorem busEffect_txlen (f : Shadow → Shadow) (s : State) : (busEffect f s).txlen = s.txlen := rfl
@[simp] theorem busEffect_op (f : Shadow → Shadow) (s : State) : (busEffect f s).op = s.op := rfl
@[simp] theorem busEffect_arg0 (f : Shadow → Shadow) (s : State) : (busEffect f s).arg0 = s.arg0 := rfl
@[simp] theorem busEffect_arg1 (f : Shadow → Shadow) (s : State) : (busEffect f s).arg1 = s.arg1 := rfl
@[simp] theorem busEffect_plen (f : Shadow → Shadow) (s : State) : (busEffect f s).plen = s.plen := rfl
@[simp] theorem busEffect_payload (f : Shadow → Shadow) (s : State) : (busEffect f s).payload = s.payload := rfl
@[simp] theorem busEffect_phase (f : Shadow → Shadow) (s : State) : (busEffect f s).phase = s.phase := rfl
@[simp] theorem busEffect_seq (f : Shadow → Shadow) (s : State) : (busEffect f s).seq = s.seq := rfl
@[simp] theorem busEffect_status (f : Shadow → Shadow) (s : State) : (busEffect f s).status = s.status := rfl
@[simp] theorem busEffect_terr (f : Shadow → Shadow) (s : State) : (busEffect f s).terr = s.terr := rfl
@[simp] theorem busEffect_log (f : Shadow → Shadow) (s : State) : (busEffect f s).log = s.log := rfl
@[simp] theorem busEffect_shadow (f : Shadow → Shadow) (s : State) : (busEffect f s).shadow = f s.shadow := rfl
@[simp] theorem busEffect_hostIn (f : Shadow → Shadow) (s : State) : (busEffect f s).hostIn = s.hostIn := rfl
@[simp] theorem busEffect_answers (f : Shadow → Shadow) (s : State) : (busEffect f s).answers = s.answers := rfl
@[simp] theorem busEffect_answerNo (f : Shadow → Shadow) (s : State) : (busEffect f s).answerNo = s.answerNo := rfl
@[simp] theorem busEffect_bus (f : Shadow → Shadow) (s : State) : (busEffect f s).bus = s.bus := rfl
@[simp] theorem busEffect_resetIn (f : Shadow → Shadow) (s : State) : (busEffect f s).resetIn = s.resetIn := rfl

/-! ### busBegin: a control byte -/

@[simp] theorem busBegin_params (m : RxMode) (s : State) : (busBegin m s).params = s.params := rfl
@[simp] theorem busBegin_addrSel (m : RxMode) (s : State) : (busBegin m s).addrSel = s.addrSel := rfl
@[simp] theorem busBegin_txbuf (m : RxMode) (s : State) : (busBegin m s).txbuf = s.txbuf := rfl
@[simp] theorem busBegin_txlen (m : RxMode) (s : State) : (busBegin m s).txlen = s.txlen := rfl
@[simp] theorem busBegin_op (m : RxMode) (s : State) : (busBegin m s).op = s.op := rfl
@[simp] theorem busBegin_arg0 (m : RxMode) (s : State) : (busBegin m s).arg0 = s.arg0 := rfl
@[simp] theorem busBegin_arg1 (m : RxMode) (s : State) : (busBegin m s).arg1 = s.arg1 := rfl
@[simp] theorem busBegin_plen (m : RxMode) (s : State) : (busBegin m s).plen = s.plen := rfl
@[simp] theorem busBegin_payload (m : RxMode) (s : State) : (busBegin m s).payload = s.payload := rfl
@[simp] theorem busBegin_phase (m : RxMode) (s : State) : (busBegin m s).phase = s.phase := rfl
@[simp] theorem busBegin_seq (m : RxMode) (s : State) : (busBegin m s).seq = s.seq := rfl
@[simp] theorem busBegin_status (m : RxMode) (s : State) : (busBegin m s).status = s.status := rfl
@[simp] theorem busBegin_terr (m : RxMode) (s : State) : (busBegin m s).terr = s.terr := rfl
@[simp] theorem busBegin_log (m : RxMode) (s : State) : (busBegin m s).log = s.log := rfl
@[simp] theorem busBegin_shadow (m : RxMode) (s : State) : (busBegin m s).shadow = s.shadow := rfl
@[simp] theorem busBegin_hostIn (m : RxMode) (s : State) : (busBegin m s).hostIn = s.hostIn := rfl
@[simp] theorem busBegin_answers (m : RxMode) (s : State) : (busBegin m s).answers = s.answers := rfl
@[simp] theorem busBegin_answerNo (m : RxMode) (s : State) : (busBegin m s).answerNo = s.answerNo := rfl
@[simp] theorem busBegin_bus (m : RxMode) (s : State) : (busBegin m s).bus = s.bus := rfl
@[simp] theorem busBegin_resetIn (m : RxMode) (s : State) : (busBegin m s).resetIn = s.resetIn := rfl

/-! ### What depends on the answer or on the rest of the frame -/

@[simp] theorem recordWrite_shadow_ok (s : State) :
    (recordWrite .ok s).shadow = shadowApply s.params (builtFrame s) s.shadow := rfl

@[simp] theorem recordWrite_shadow_err (e : TErr) (s : State) :
    (recordWrite (.err e) s).shadow = shadowFail s.params (builtFrame s) s.shadow := rfl

theorem busDone_rx (s : State) :
    (busDone s).rx = if s.bus.isEmpty then rxBetween else { s.rx with low := none } := rfl

theorem busEffect_rx (f : Shadow → Shadow) (s : State) :
    (busEffect f s).rx = if s.bus.isEmpty then rxBetween else { s.rx with low := none } := rfl

theorem busBegin_rx (m : RxMode) (s : State) :
    (busBegin m s).rx = if s.bus.isEmpty then rxBetween else { mode := m, low := none } := rfl

/-- The built frame depends on the buffer and its length only. -/
theorem builtFrame_congr {s t : State} (hb : s.txbuf = t.txbuf) (hl : s.txlen = t.txlen) : builtFrame s = builtFrame t := by
  simp only [builtFrame, hb, hl]

@[simp] theorem builtFrame_useAnswer (s : State) : builtFrame (useAnswer s) = builtFrame s := rfl

@[simp] theorem builtFrame_respond (st : Status) (s : State) : builtFrame (respond st s) = builtFrame s := rfl

/-! `busStray` -/

@[simp] theorem busStray_params (s : State) : (busStray s).params = s.params := rfl
@[simp] theorem busStray_addrSel (s : State) : (busStray s).addrSel = s.addrSel := rfl
@[simp] theorem busStray_txbuf (s : State) : (busStray s).txbuf = s.txbuf := rfl
@[simp] theorem busStray_txlen (s : State) : (busStray s).txlen = s.txlen := rfl
@[simp] theorem busStray_op (s : State) : (busStray s).op = s.op := rfl
@[simp] theorem busStray_arg0 (s : State) : (busStray s).arg0 = s.arg0 := rfl
@[simp] theorem busStray_arg1 (s : State) : (busStray s).arg1 = s.arg1 := rfl
@[simp] theorem busStray_plen (s : State) : (busStray s).plen = s.plen := rfl
@[simp] theorem busStray_payload (s : State) : (busStray s).payload = s.payload := rfl
@[simp] theorem busStray_phase (s : State) : (busStray s).phase = s.phase := rfl
@[simp] theorem busStray_seq (s : State) : (busStray s).seq = s.seq := rfl
@[simp] theorem busStray_status (s : State) : (busStray s).status = s.status := rfl
@[simp] theorem busStray_terr (s : State) : (busStray s).terr = s.terr := rfl
@[simp] theorem busStray_log (s : State) : (busStray s).log = s.log := rfl
@[simp] theorem busStray_hostIn (s : State) : (busStray s).hostIn = s.hostIn := rfl
@[simp] theorem busStray_answers (s : State) : (busStray s).answers = s.answers := rfl
@[simp] theorem busStray_answerNo (s : State) : (busStray s).answerNo = s.answerNo := rfl
@[simp] theorem busStray_resetIn (s : State) : (busStray s).resetIn = s.resetIn := rfl
@[simp] theorem busStray_bus (s : State) : (busStray s).bus = [] := rfl
@[simp] theorem busStray_rx (s : State) : (busStray s).rx = rxBetween := rfl
@[simp] theorem busStray_shadow (s : State) :
    (busStray s).shadow = if s.rx.mode = .command then shadowOther s.params s.bus s.shadow else s.shadow := rfl

end Sys2Proof.Machine
end

