-- ==== Sys2Proof/Laws/Ops.lean ====
section
/-! SUPPORT. One lemma per shared operation that says everything it can do. -/

namespace Sys2Proof.Machine

/-! ### The transaction buffer -/

theorem take_set_succ (l : List Byte) (i : Nat) (b : Byte) (h : i < l.length) :
    (l.set i b).take (i + 1) = l.take i ++ [b] := by
  rw [List.take_add_one, List.take_set_of_le (Nat.le_refl i)]
  simp [h]

theorem drop_set_later (l : List Byte) (i k : Nat) (b : Byte) (h : i < k) : (l.set i b).drop k = l.drop k := by
  rw [List.drop_set_of_lt h]

/-- Filling `TXBUF` from index `i` writes exactly those bytes (R51, R120). -/
theorem txFill_toList (bytes : List Byte) (i : Nat) (buf : Vector Byte 129) (h : i + bytes.length ≤ 129) :
    (txFill i bytes buf).toList = buf.toList.take i ++ bytes ++ buf.toList.drop (i + bytes.length) := by
  induction bytes generalizing i buf with
  | nil => simp [txFill]
  | cons b rest ih =>
    simp only [List.length_cons] at h
    have hi : i < buf.toList.length := by simp; omega
    rw [txFill, ih _ _ (by omega)]
    have hs : (buf.setIfInBounds i b).toList = buf.toList.set i b := by simp
    rw [hs, take_set_succ _ _ _ hi, drop_set_later _ _ _ _ (by omega)]
    have hl : i + 1 + rest.length = i + (rest.length + 1) := by omega
    simp [hl]

/-- After building a frame, `TXBUF` is the frame and then what was there before (R22, R120). -/
theorem buildFrame_txbuf_toList (frame : List Byte) (s : State) (h : frame.length ≤ 129) :
    (buildFrame frame s).txbuf.toList = frame ++ s.txbuf.toList.drop frame.length := by
  simp [txFill_toList frame 0 s.txbuf (by omega)]

theorem buildFrame_txlen_toNat (frame : List Byte) (s : State) (h : frame.length ≤ 129) :
    (buildFrame frame s).txlen.toNat = frame.length := by
  simp
  omega

/-- The frame that the transport is given is the frame that was built (R22). -/
theorem builtFrame_buildFrame (frame : List Byte) (s : State) (h : frame.length ≤ 129) :
    builtFrame (buildFrame frame s) = frame := by
  rw [builtFrame, buildFrame_txbuf_toList frame s h, buildFrame_txlen_toNat frame s h]
  simp

/-! ### Frames of calls -/

theorem frameOf_eq_ok {ctrl : Byte} {bytes frame : List Byte} :
    frameOf ctrl bytes = .ok frame ↔ bytes.length ≤ 128 ∧ frame = ctrl :: bytes := by
  unfold frameOf lengthFits maxTransactionSize
  by_cases h : bytes.length ≤ 128
  · simp [h, eq_comm]
  · simp [h]

theorem frameOf_eq_error {ctrl : Byte} {bytes : List Byte} {x : Condition} :
    frameOf ctrl bytes = .error x ↔ 128 < bytes.length ∧ x = .bufferTooSmall := by
  unfold frameOf lengthFits maxTransactionSize
  by_cases h : bytes.length ≤ 128
  · simp only [h, decide_true, if_true, reduceCtorEq, false_iff, not_and]
    omega
  · have h' : 128 < bytes.length := by omega
    simp [h, h', eq_comm]

/-- Every frame that a call has begins with 0x00 or 0x40 and is at most 129 bytes long (R125). -/
theorem callFrame_legal {p : Params} {c : Call} {frame : List Byte} (h : callFrame p c = .ok frame) :
    legalFrame frame := by
  have key : ∀ {ctrl : Byte} {bytes : List Byte}, (ctrl = 0x00#8 ∨ ctrl = 0x40#8) →
      frameOf ctrl bytes = .ok frame → legalFrame frame := by
    intro ctrl bytes hc hf
    obtain ⟨hl, rfl⟩ := frameOf_eq_ok.mp hf
    refine ⟨⟨bytes, ?_⟩, by simp; omega⟩
    rcases hc with rfl | rfl
    · exact .inl rfl
    · exact .inr rfl
  cases c with
  | sendCommands bytes => exact key (.inl rfl) h
  | sendData bytes => exact key (.inr rfl) h
  | setPage page =>
    simp only [callFrame] at h
    split at h
    · exact key (.inl rfl) h
    · cases h
  | setColumn column =>
    simp only [callFrame] at h
    split at h
    · exact key (.inl rfl) h
    · cases h
  | setMemPageMode page column =>
    simp only [callFrame] at h
    split at h
    · split at h
      · exact key (.inl rfl) h
      · cases h
    · cases h

theorem callFrame_length {p : Params} {c : Call} {frame : List Byte} (h : callFrame p c = .ok frame) :
    frame.length ≤ 129 := (callFrame_legal h).2

/-! ### The transport's turn -/

/-- `Ok` and no answer are always the transport's to give. -/
@[simp] theorem turnOf_ok (p : Params) : turnOf p (some .ok) = some .ok := rfl

@[simp] theorem turnOf_none (p : Params) : turnOf p none = none := rfl

/-- An error the transport gives is one of its type (R231). -/
theorem turnOf_eq_err {p : Params} {a : Option Answer} {e : TErr} :
    turnOf p a = some (.err e) ↔ a = some (.err e) ∧ isTerr p e = true := by
  unfold turnOf
  split
  · rename_i e'
    by_cases h : isTerr p e' = true
    · simp only [h, if_true, Option.some.injEq, Answer.err.injEq]
      exact ⟨fun he => ⟨he, he ▸ h⟩, fun he => he.1⟩
    · simp only [h, Option.some.injEq, Answer.err.injEq]
      exact ⟨fun he => (by cases he), fun he => absurd (he.1 ▸ he.2) h⟩
  · rename_i h
    exact ⟨fun he => absurd he (h e), fun he => absurd he.1 (h e)⟩

theorem nextAnswer_cons {s : State} {a : Option Answer} {more : List (Option Answer)} (h : s.answers = a :: more) :
    nextAnswer s = turnOf s.params a := by simp only [nextAnswer, h]

theorem nextAnswer_isTerr {s : State} {e : TErr} (h : nextAnswer s = some (.err e)) : isTerr s.params e = true := by
  unfold nextAnswer at h
  split at h <;> exact (turnOf_eq_err.mp h).2

theorem nextAnswer_congr {s t : State} (h : s.answers = t.answers) (hn : s.answerNo = t.answerNo)
    (hp : s.params = t.params) : nextAnswer s = nextAnswer t := by simp only [nextAnswer, h, hn, hp]

theorem settle_none {g : State → State} {s : State} (h : nextAnswer s = none) : settle g s = useAnswer s := by
  simp only [settle, h]

theorem settle_ok {g : State → State} {s : State} (h : nextAnswer s = some .ok) :
    settle g s = g { recordWrite .ok (useAnswer s) with seq := s.seq + 1#5 } := by
  simp only [settle, h]
  rfl

theorem settle_err {g : State → State} {s : State} {e : TErr} (h : nextAnswer s = some (.err e)) :
    settle g s = raise (.transport e) (recordWrite (.err e) (useAnswer s)) := by
  simp only [settle, h]

/-- Everything the transport's turn can do (R120, R166). -/
theorem settle_cases (g : State → State) (s : State) :
    (nextAnswer s = none ∧ settle g s = useAnswer s) ∨
    (nextAnswer s = some .ok ∧ settle g s = g { recordWrite .ok (useAnswer s) with seq := s.seq + 1#5 }) ∨
    ∃ e, nextAnswer s = some (.err e) ∧
      settle g s = raise (.transport e) (recordWrite (.err e) (useAnswer s)) := by
  cases h : nextAnswer s with
  | none => exact .inl ⟨rfl, settle_none h⟩
  | some a =>
    cases a with
    | ok => exact .inr (.inl ⟨rfl, settle_ok h⟩)
    | err e => exact .inr (.inr ⟨e, rfl, settle_err h⟩)

/-! ### Running calls -/

theorem runCalls_nil (s : State) : runCalls [] s = respond .ok s := rfl

theorem runCalls_cons_ok {c : Call} {cs : List Call} {s : State} {frame : List Byte}
    (h : callFrame s.params c = .ok frame) : runCalls (c :: cs) s = settle (runCalls cs) (buildFrame frame s) := by
  simp only [runCalls, h]

theorem runCalls_cons_error {c : Call} {cs : List Call} {s : State} {x : Condition}
    (h : callFrame s.params c = .error x) : runCalls (c :: cs) s = raise x s := by
  simp only [runCalls, h]

/-! ### Requests -/

theorem request_busy {op : BitVec 4} {r : Fields} {calls : List Call} {s : State} (h : s.phase = .busy) :
    request op r calls s = .refused .requestWhileBusy := by
  simp only [request, h]

theorem request_ok {op : BitVec 4} {r : Fields} {c : Call} {cs : List Call} {s : State} {frame : List Byte}
    (h : s.phase = .idle) (hf : callFrame s.params c = .ok frame) :
    request op r (c :: cs) s = .next (settle (runCalls cs) (buildFrame frame (accept op r s))) := by
  simp only [request, h, hf]

theorem request_error {op : BitVec 4} {r : Fields} {c : Call} {cs : List Call} {s : State} {x : Condition}
    (h : s.phase = .idle) (hf : callFrame s.params c = .error x) :
    request op r (c :: cs) s = reject x s := by
  simp only [request, h, hf]

/-- Everything a request can do when it answers a next state. -/
theorem request_cases {op : BitVec 4} {r : Fields} {c : Call} {cs : List Call} {s t : State}
    (h : request op r (c :: cs) s = .next t) :
    s.phase = .idle ∧
    ((∃ x, callFrame s.params c = .error x ∧ t = raise x { s with seq := 0#5 }) ∨
     ∃ frame, callFrame s.params c = .ok frame ∧
       t = settle (runCalls cs) (buildFrame frame (accept op r s))) := by
  cases hp : s.phase with
  | busy => rw [request_busy hp] at h; cases h
  | idle =>
    refine ⟨rfl, ?_⟩
    cases hf : callFrame s.params c with
    | error x =>
      rw [request_error hp hf] at h
      unfold reject at h
      split at h
      · cases h
      · cases h
        exact .inl ⟨x, rfl, rfl⟩
    | ok frame =>
      rw [request_ok hp hf] at h
      cases h
      exact .inr ⟨frame, rfl, rfl⟩

end Sys2Proof.Machine
end

