-- ==== Sys2Proof/Laws/Exec.lean ====
section
/-! SUPPORT. What `exec` is on a request: one form, for proofs over all requests. -/

namespace Sys2Proof.Machine

/-- `clear()` has a first call and 25 more (R165). -/
theorem clearCalls_cons : clearCalls = .setPage 0 :: clearCalls.tail := by decide

/-- A request is a reserved code, or it makes its calls, which depend on the parameters alone, and the calls
of the latched request are the same (R81, R100): where there is one call only, once its frame is in `TXBUF`,
since a payload is held nowhere else (R24). What is latched is the instruction's own fields. -/
theorem exec_request_form {i : Instr} (hi : isRequest i = true) (s : State) :
    (∀ u : State, exec i u = illegalRequest u) ∨
    ∃ op f c cs, i.requestFields = some { arg0 := f.arg0, arg1 := f.arg1, plen := f.plen } ∧ (∀ u : State, u.params = s.params → exec i u = request op f (c :: cs) u) ∧
      ∀ u : State, u.params = s.params → u.op = op → u.arg0 = f.arg0 → u.arg1 = f.arg1 →
        (cs = [] → callFrame s.params c = .ok (builtFrame u)) → latchedCalls u = c :: cs := by
  cases i with
  | reserved9 r => exact .inl fun _ => rfl
  | reservedAB low r => exact .inl fun _ => rfl
  | reservedCF low r => exact .inl fun _ => rfl
  | sendCommands r =>
    refine .inr ⟨0x0#4, sendFields r, _, _, rfl, fun _ _ => rfl, fun u _ ho _ _ hb => ?_⟩
    have hf := (frameOf_eq_ok.mp (hb rfl)).2
    simp [latchedCalls, ho, hf, sendCommandsCalls]
  | sendData r =>
    refine .inr ⟨0x1#4, sendFields r, _, _, rfl, fun _ _ => rfl, fun u _ ho _ _ hb => ?_⟩
    have hf := (frameOf_eq_ok.mp (hb rfl)).2
    simp [latchedCalls, ho, hf, sendDataCalls]
  | setPage r =>
    refine .inr ⟨0x2#4, reqFields r, _, _, rfl, fun _ _ => rfl, fun u _ ho h0 _ _ => ?_⟩
    simp [latchedCalls, ho, h0, setPageCalls, reqFields]
  | setColumn r =>
    refine .inr ⟨0x3#4, reqFields r, _, _, rfl, fun _ _ => rfl, fun u _ ho h0 _ _ => ?_⟩
    simp [latchedCalls, ho, h0, setColumnCalls, reqFields]
  | setMemPageMode r =>
    refine .inr ⟨0x4#4, reqFields r, _, _, rfl, fun _ _ => rfl, fun u _ ho h0 h1 _ => ?_⟩
    simp [latchedCalls, ho, h0, h1, setMemPageModeCalls, reqFields]
  | init r =>
    refine .inr ⟨0x5#4, reqFields r, .sendCommands initSeq, [], rfl, fun _ _ => rfl, fun u _ ho _ _ _ => ?_⟩
    simp [latchedCalls, ho, initCalls]
  | clear r =>
    refine .inr ⟨0x6#4, reqFields r, .setPage 0, clearCalls.tail, rfl, fun u _ => ?_, fun u _ ho _ _ _ => ?_⟩
    · rw [← clearCalls_cons]; rfl
    · rw [← clearCalls_cons]; simp [latchedCalls, ho]
  | displayOn r =>
    refine .inr ⟨0x7#4, reqFields r, .sendCommands [entireOnResume], [], rfl, fun _ _ => rfl, fun u _ ho _ _ _ => ?_⟩
    simp [latchedCalls, ho, displayOnCalls]
  | displayOnIgnoreRam r =>
    refine .inr ⟨0x8#4, reqFields r, .sendCommands [s.params.entireOnIgnoreRam], [], rfl, fun u hpar => ?_,
      fun u hpar ho _ _ _ => ?_⟩
    · rw [← hpar]; rfl
    · simp [latchedCalls, ho, hpar, displayOnIgnoreRamCalls]
  | _ => cases hi

/-- Only `clear()` has more than one call (R26, R165), and its calls are read from the latches alone. -/
theorem latchedCalls_eq_clear {s u : State} (h : 1 < (latchedCalls s).length) (ho : u.op = s.op) :
    latchedCalls s = clearCalls ∧ latchedCalls u = clearCalls := by
  have h6 : s.op = 0x6#4 := by
    by_cases hne : s.op = 0x6#4
    · exact hne
    · exfalso
      simp only [latchedCalls, hne, if_false] at h
      repeat' split at h
      all_goals simp [sendCommandsCalls, sendDataCalls, setPageCalls, setColumnCalls, setMemPageModeCalls, initCalls,
        displayOnCalls, displayOnIgnoreRamCalls] at h
  exact ⟨by simp [latchedCalls, h6], by simp [latchedCalls, ho, h6]⟩

end Sys2Proof.Machine
end

