-- ==== Sys2Proof/Laws/PerInstr.lean ====
section
/-! SUPPORT. A statement about every instruction as syntax: how many bytes its encoding has. -/

namespace Sys2Proof.Laws.EncodedLength

/-- With the default parameters a request is five bytes and, for SEND_COMMANDS and SEND_DATA, its payload
(30_encoding R80, log entry 5); a bus instruction is as many bytes as its row of the table has (R90, R101). -/
def Statement (i : Instr) : Prop :=
  (encode i).length =
    match i with
    | .sendCommands r => 5 + r.payload.length
    | .sendData r => 5 + r.payload.length
    | .setPage _ => 5
    | .setColumn _ => 5
    | .setMemPageMode _ => 5
    | .init _ => 5
    | .clear _ => 5
    | .displayOn _ => 5
    | .displayOnIgnoreRam _ => 5
    | .reserved9 _ => 5
    | .reservedAB _ _ => 5
    | .reservedCF _ _ => 5
    | .ctrlCommand => 1
    | .ctrlData => 1
    | .dataByte _ => 1
    | .cmdPageStart _ => 1
    | .cmdColLow _ => 1
    | .cmdColHigh _ => 1
    | .cmdEntireOnResume => 1
    | .cmdEntireOnIgnoreRam => 1
    | .cmdAddrModePage => 2
    | .cmdDisplayOff => 1
    | .cmdMuxRatio => 2
    | .cmdDisplayOffset => 2
    | .cmdStartLine0 => 1
    | .cmdSegmentRemap0 => 1
    | .cmdComScanNormal => 1
    | .cmdComPins => 2
    | .cmdContrast => 2
    | .cmdNormalDisplay => 1
    | .cmdClockDiv => 2
    | .cmdChargePump => 2
    | .cmdDisplayOnPanel => 1

theorem encodeSend_length (op : BitVec 4) (r : SendArgs) :
    (encodeSend Machine.defaultParams op r).length = 5 + r.payload.length := by
  rw [encodeSend, List.length_append]
  rfl

theorem sendCommands (r : SendArgs) : Statement (.sendCommands r) := encodeSend_length _ r

theorem sendData (r : SendArgs) : Statement (.sendData r) := encodeSend_length _ r

theorem setPage (r : ReqArgs) : Statement (.setPage r) := rfl

theorem setColumn (r : ReqArgs) : Statement (.setColumn r) := rfl

theorem setMemPageMode (r : ReqArgs) : Statement (.setMemPageMode r) := rfl

theorem init (r : ReqArgs) : Statement (.init r) := rfl

theorem clear (r : ReqArgs) : Statement (.clear r) := rfl

theorem displayOn (r : ReqArgs) : Statement (.displayOn r) := rfl

theorem displayOnIgnoreRam (r : ReqArgs) : Statement (.displayOnIgnoreRam r) := rfl

theorem reserved9 (r : ReqArgs) : Statement (.reserved9 r) := rfl

theorem reservedAB (low : BitVec 1) (r : ReqArgs) : Statement (.reservedAB low r) := rfl

theorem reservedCF (low : BitVec 2) (r : ReqArgs) : Statement (.reservedCF low r) := rfl

theorem ctrlCommand : Statement .ctrlCommand := rfl

theorem ctrlData : Statement .ctrlData := rfl

theorem dataByte (d : Byte) : Statement (.dataByte d) := rfl

theorem cmdPageStart (p : BitVec 3) : Statement (.cmdPageStart p) := rfl

theorem cmdColLow (l : BitVec 4) : Statement (.cmdColLow l) := rfl

theorem cmdColHigh (h : BitVec 3) : Statement (.cmdColHigh h) := rfl

theorem cmdEntireOnResume : Statement .cmdEntireOnResume := rfl

theorem cmdEntireOnIgnoreRam : Statement .cmdEntireOnIgnoreRam := rfl

theorem cmdAddrModePage : Statement .cmdAddrModePage := rfl

theorem cmdDisplayOff : Statement .cmdDisplayOff := rfl

theorem cmdMuxRatio : Statement .cmdMuxRatio := rfl

theorem cmdDisplayOffset : Statement .cmdDisplayOffset := rfl

theorem cmdStartLine0 : Statement .cmdStartLine0 := rfl

theorem cmdSegmentRemap0 : Statement .cmdSegmentRemap0 := rfl

theorem cmdComScanNormal : Statement .cmdComScanNormal := rfl

theorem cmdComPins : Statement .cmdComPins := rfl

theorem cmdContrast : Statement .cmdContrast := rfl

theorem cmdNormalDisplay : Statement .cmdNormalDisplay := rfl

theorem cmdClockDiv : Statement .cmdClockDiv := rfl

theorem cmdChargePump : Statement .cmdChargePump := rfl

theorem cmdDisplayOnPanel : Statement .cmdDisplayOnPanel := rfl

end Sys2Proof.Laws.EncodedLength
end

