-- ==== Sys2Proof/Laws/Step.lean ====
section
/-! SUPPORT. Everything a step that answers a next state can be. -/

namespace Sys2Proof.Machine

/-- A step to a next state is a construction, the transport's turn, nothing, a request run, an instruction of
the bus run, or bytes of the bus that are none taken. -/
theorem step_next_cases {s t : State} (h : step s = .next t) :
    (∃ sel, s.resetIn = some sel ∧ s.phase = .idle ∧ t = construct sel s) ∨
    (s.resetIn = none ∧
      ((s.bus = [] ∧ s.phase = .busy ∧ t = resume s) ∨
       (s.bus = [] ∧ s.phase = .idle ∧ (∃ e, decodeRequest s.params s.hostIn = .error e) ∧ t = s) ∨
       (s.bus = [] ∧ s.phase = .idle ∧
        ∃ i rest, decodeRequest s.params s.hostIn = .ok (i, rest) ∧ exec i { s with hostIn := rest } = .next t) ∨
       (s.bus ≠ [] ∧ ∃ i rest, decodeWith s.params (busFormat s.rx.mode) s.bus = .ok (i, rest) ∧
        exec i { s with bus := rest } = .next t) ∨
       (s.bus ≠ [] ∧ (∃ e, decodeWith s.params (busFormat s.rx.mode) s.bus = .error e) ∧ t = busStray s))) := by
  unfold step fetch at h
  cases hr : s.resetIn with
  | some sel =>
    left
    simp only [hr, constructStep] at h
    refine ⟨sel, rfl, ?_⟩
    split at h
    · cases h
    · cases h; exact ⟨‹_›, rfl⟩
  | none =>
    right
    refine ⟨rfl, ?_⟩
    simp only [hr] at h
    cases hb : s.bus with
    | nil =>
      simp only [hb, List.isEmpty_nil, if_true] at h
      cases hp : s.phase with
      | busy => simp only [hp] at h; cases h; exact .inl ⟨rfl, rfl, rfl⟩
      | idle =>
        simp only [hp, fetchRequest] at h
        cases hd : decodeWith s.params .req s.hostIn with
        | ok o =>
          obtain ⟨i, rest⟩ := o
          simp only [hd] at h
          exact .inr (.inr (.inl ⟨rfl, rfl, i, rest, hd, by rw [← h]; congr 1; simp [hb, hr]⟩))
        | error e =>
          simp only [hd] at h
          cases h
          exact .inr (.inl ⟨rfl, rfl, ⟨e, hd⟩, rfl⟩)
    | cons x xs =>
      simp only [hb, List.isEmpty_cons, Bool.false_eq_true, if_false, fetchBus] at h
      cases hd : decodeWith s.params (busFormat s.rx.mode) (x :: xs) with
      | ok o =>
        obtain ⟨i, rest⟩ := o
        simp only [hd] at h
        exact .inr (.inr (.inr (.inl ⟨by simp, i, rest, rfl, by rw [← h]; congr 1; simp [hr]⟩)))
      | error e =>
        simp only [hd] at h
        cases h
        exact .inr (.inr (.inr (.inr ⟨by simp, ⟨e, rfl⟩, by simp⟩)))

end Sys2Proof.Machine
end

