-- ==== Sys2Proof/Tests/Slice0.lean ====
section
/-! SUPPORT. Tests: expected results are the words of spec/30_encoding.md and the vectors of spec/95_test_vectors.md (their ids stand in the comments), and a witness for the hypotheses of each statement. -/

namespace Sys2Proof.Tests

open Sys2Proof Sys2Proof.Machine

set_option Elab.async false

/-! ### Helpers -/

/-- A request that reads no payload. -/
def args (arg0 arg1 : Nat) : ReqArgs := { arg0 := arg0, arg1 := arg1, plen := 0 }

/-- A request with a payload. -/
def bytes (payload : List Byte) : SendArgs := { arg0 := 0, arg1 := 0, payload := payload }

/-- The machine after reset, with the transport's coming answers. -/
def ready (answers : List (Option Answer)) : State := { State.reset with answers := answers }

/-- A transport error. -/
def e1 : TErr := { label := 1 }

/-- The machine in `IDLE` with the pointer at a page and a column in PAGE mode. -/
def at_ (page : BitVec 3) (col : BitVec 7) (ram : Memory) (answers : List (Option Answer)) : State :=
  { ready answers with shadow := { page := some page, col := some col, mode := some .page, ram := ram } }

/-- The machine `BUSY` with the write of `set_page(1)` not answered yet. -/
def waiting (answers : List (Option Answer)) : State :=
  { ready answers with
    phase := .busy, op := 0x2#4, arg0 := 1, txlen := 2#8
    txbuf := (Vector.replicate 129 0#8).set 1 0xB1#8 }

/-- The next state, if there is one. -/
def after : Out → Option State
  | .next t => some t
  | _ => none

/-- The fault, if there is one. -/
def faultOf : Out → Option Fault
  | .fault f => some f
  | _ => none

/-- The refusal, if there is one. -/
def refusalOf : Out → Option Refusal
  | .refused r => some r
  | _ => none

/-- What a decoder reads, if it reads an instruction. -/
def read (f : Format) (bs : List Byte) : Option (Instr × List Byte) := (decode f bs).toOption

/-- Status, number of records and the last record's frame. -/
def result (t : State) : Status × Nat × Option (List Byte) := (t.status, t.log.length, t.log.getLast?.map LogRecord.bytes)

/-! ### Well-formedness -/

theorem test_wellFormed_refuses_65536_bytes :
    (Instr.sendData (bytes (List.replicate 65536 0#8))).wellFormed defaultParams = false := by
  simp only [Instr.wellFormed, Instr.requestFields, bytes, List.length_replicate]
  decide

theorem test_wellFormed_refuses_plen_65536 :
    (Instr.setPage { arg0 := 1, arg1 := 0, plen := 65536 }).wellFormed defaultParams = false := by decide

theorem test_wellFormed_refuses_arg0_256 : (Instr.setPage (args 256 0)).wellFormed defaultParams = false := by decide

theorem test_wellFormed_refuses_arg1_256 : (Instr.setMemPageMode (args 0 256)).wellFormed defaultParams = false := by decide

theorem test_wellFormed_takes_65535_bytes :
    (Instr.sendData (bytes (List.replicate 65535 0#8))).wellFormed defaultParams = true := by
  simp only [Instr.wellFormed, Instr.requestFields, bytes, List.length_replicate]
  decide

/-! ### Decoding: words written out from 30_encoding R80, R81, R84 to R91 -/

theorem test_decode_sendCommands : read .req [0x00#8, 0x00#8, 0b00000000#8, 0x01#8, 0x00#8, 0xAE#8, 0x77#8] =
    some (.sendCommands (bytes [0xAE#8]), [0x77#8]) := by decide
theorem test_decode_sendData : read .req [0x00#8, 0x00#8, 0b00000001#8, 0x02#8, 0x00#8, 0xFF#8, 0x81#8] =
    some (.sendData (bytes [0xFF#8, 0x81#8]), []) := by decide
theorem test_decode_setPage : read .req [0x00#8, 0b00000101#8, 0b00000010#8, 0x00#8, 0x00#8] =
    some (.setPage (args 5 0), []) := by decide
theorem test_decode_setColumn : read .req [0x00#8, 0x5A#8, 0b00000011#8, 0x00#8, 0x00#8] =
    some (.setColumn (args 90 0), []) := by decide
theorem test_decode_setMemPageMode : read .req [0x40#8, 0x03#8, 0b00000100#8, 0x00#8, 0x00#8] =
    some (.setMemPageMode (args 3 64), []) := by decide
theorem test_decode_init : read .req [0x00#8, 0x00#8, 0b00000101#8, 0x00#8, 0x00#8] =
    some (.init (args 0 0), []) := by decide
theorem test_decode_clear : read .req [0x00#8, 0x00#8, 0b00000110#8, 0x00#8, 0x00#8] =
    some (.clear (args 0 0), []) := by decide
theorem test_decode_displayOn : read .req [0x00#8, 0x00#8, 0b00000111#8, 0x00#8, 0x00#8] =
    some (.displayOn (args 0 0), []) := by decide
theorem test_decode_displayOnIgnoreRam : read .req [0x00#8, 0x00#8, 0b00001000#8, 0x00#8, 0x00#8] =
    some (.displayOnIgnoreRam (args 0 0), []) := by decide
theorem test_decode_reserved9 : read .req [0x00#8, 0x00#8, 0b00001001#8, 0x00#8, 0x00#8] =
    some (.reserved9 (args 0 0), []) := by decide
theorem test_decode_reservedA : read .req [0x00#8, 0x00#8, 0b00001010#8, 0x00#8, 0x00#8] =
    some (.reservedAB 0#1 (args 0 0), []) := by decide
theorem test_decode_reservedB : read .req [0x00#8, 0x00#8, 0b00001011#8, 0x00#8, 0x00#8] =
    some (.reservedAB 1#1 (args 0 0), []) := by decide
theorem test_decode_reservedC : read .req [0x00#8, 0x00#8, 0b00001100#8, 0x00#8, 0x00#8] =
    some (.reservedCF 0#2 (args 0 0), []) := by decide
theorem test_decode_reservedF : read .req [0x00#8, 0x00#8, 0b00001111#8, 0x00#8, 0x00#8] =
    some (.reservedCF 3#2 (args 0 0), []) := by decide
/-- R80: H is 20 bits; the four above it are no part of the request. -/
theorem test_decode_header_is_20_bits : read .req [0x00#8, 0x05#8, 0b00010010#8, 0x00#8, 0x00#8] =
    some (.setPage (args 5 0), []) := by decide
/-- R80, R140: plen is ignored and no payload byte is read. -/
theorem test_decode_plen_ignored : read .req [0x00#8, 0x03#8, 0b00000010#8, 0x05#8, 0x00#8, 0x77#8] =
    some (.setPage { arg0 := 3, arg1 := 0, plen := 5 }, [0x77#8]) := by decide
theorem test_decode_ctrlCommand : read .ctrl [0b00000000#8, 0xAE#8] = some (.ctrlCommand, [0xAE#8]) := by decide
theorem test_decode_ctrlData : read .ctrl [0b01000000#8] = some (.ctrlData, []) := by decide
theorem test_decode_no_other_control_byte : read .ctrl [0b10000000#8] = none := by decide
theorem test_decode_dataByte : read .data [0b01000000#8] = some (.dataByte 0x40#8, []) := by decide
theorem test_decode_pageStart : read .cmd [0b10110111#8] = some (.cmdPageStart 7#3, []) := by decide
theorem test_decode_colLow : read .cmd [0b00001010#8, 0b00010101#8] = some (.cmdColLow 10#4, [0x15#8]) := by decide
theorem test_decode_colHigh : read .cmd [0b00010101#8] = some (.cmdColHigh 5#3, []) := by decide
theorem test_decode_entireOnResume : read .cmd [0b10100100#8] = some (.cmdEntireOnResume, []) := by decide
theorem test_decode_entireOnIgnoreRam : read .cmd [0b10100101#8] = some (.cmdEntireOnIgnoreRam, []) := by decide
theorem test_decode_addrModePage : read .cmd [0b00100000#8, 0b00000010#8] = some (.cmdAddrModePage, []) := by decide
theorem test_decode_displayOff : read .cmd [0b10101110#8] = some (.cmdDisplayOff, []) := by decide
theorem test_decode_muxRatio : read .cmd [0b10101000#8, 0b00111111#8] = some (.cmdMuxRatio, []) := by decide
theorem test_decode_displayOffset : read .cmd [0b11010011#8, 0b00000000#8] = some (.cmdDisplayOffset, []) := by decide
theorem test_decode_startLine0 : read .cmd [0b01000000#8] = some (.cmdStartLine0, []) := by decide
theorem test_decode_segmentRemap0 : read .cmd [0b10100000#8] = some (.cmdSegmentRemap0, []) := by decide
theorem test_decode_comScanNormal : read .cmd [0b11000000#8] = some (.cmdComScanNormal, []) := by decide
theorem test_decode_comPins : read .cmd [0b11011010#8, 0b00010010#8] = some (.cmdComPins, []) := by decide
theorem test_decode_contrast : read .cmd [0b10000001#8, 0b01111111#8] = some (.cmdContrast, []) := by decide
theorem test_decode_normalDisplay : read .cmd [0b10100110#8] = some (.cmdNormalDisplay, []) := by decide
theorem test_decode_clockDiv : read .cmd [0b11010101#8, 0b10000000#8] = some (.cmdClockDiv, []) := by decide
theorem test_decode_chargePump : read .cmd [0b10001101#8, 0b00010100#8] = some (.cmdChargePump, []) := by decide
theorem test_decode_displayOnPanel : read .cmd [0b10101111#8] = some (.cmdDisplayOnPanel, []) := by decide
/-- R87: the high nibble is at most 7. -/
theorem test_decode_no_high_nibble_above_7 : read .cmd [0b00011000#8] = none := by decide

/-- Parameters with other widths (R7): `ARG_WIDTH` 12 and `LEN_WIDTH` 10. -/
def wide : Params :=
  { defaultParams with argWidth := { bits := 12, holds := by decide }, lenWidth := { bits := 10, holds := by decide } }

/-- R80 with arguments of 12 bits: `H[27:24] = 3`, `H[23:12] = 0x15A`, `H[11:0] = 0x001`. -/
theorem test_decode_wide : (decodeWith wide .req [0x01#8, 0xA0#8, 0x15#8, 0x03#8, 0x00#8, 0x00#8, 0x77#8]).toOption =
    some (.setColumn (args 0x15A 1), [0x77#8]) := by decide
/-- D3: a wider argument is rejected the same way; 0x15A is no column, although its low byte is one. -/
theorem test_wide_argument_out_of_range :
    (after (step { ready [some .ok] with params := wide, hostIn := [0x01#8, 0xA0#8, 0x15#8, 0x03#8, 0x00#8, 0x00#8] })).map
      result = some (.rangeViolation, 0, none) := by decide +kernel

/-- The headers of V-S9 and Program 3 (`H = 0x50000`, `0x60000`), and a command row. -/
theorem test_table_words :
    decodeTableWord 24 0x50000 = some (.init (args 0 0)) ∧
    decodeTableWord 24 0x60000 = some (.clear (args 0 0)) ∧
    decodeTableWord 16 0x8D14 = some .cmdChargePump := by decide

/-! ### Requests -/

/-- V-F3. -/
theorem test_sendCommands_frame :
    (after (exec (.sendCommands (bytes [0xAE#8])) (ready [some .ok]))).map result =
      some (.ok, 1, some [0x00#8, 0xAE#8]) := by decide +kernel
/-- V-F12: one record, its error unchanged, no second write. -/
theorem test_sendCommands_error :
    (after (exec (.sendCommands (bytes [0xAE#8])) (ready [some (.err e1), some .ok]))).map
      (fun t => (result t, t.terr, t.answers)) =
      some ((.transportError, 1, some [0x00#8, 0xAE#8]), e1, [some .ok]) := by decide +kernel
/-- V-F4: payload bytes equal to control-byte values are payload. -/
theorem test_sendData_opaque :
    (after (exec (.sendData (bytes [0x00#8, 0x40#8])) (ready [some .ok]))).map result =
      some (.ok, 1, some [0x40#8, 0x00#8, 0x40#8]) := by decide +kernel
/-- V-P8: a row filled to its end; the cells are at addresses 3 * 128 + 126 and + 127. -/
theorem test_sendData_row_end :
    (after (exec (.sendData (bytes [0x01#8, 0x02#8])) (at_ 3#3 126#7 [(5, 9#8)] [some .ok]))).map State.shadow =
      some { page := none, col := none, mode := some .page, ram := [(5, 9#8), (510, 0x01#8), (511, 0x02#8)] } := by
  decide +kernel
/-- V-A8, V-P13. -/
theorem test_setPage_frame :
    (after (exec (.setPage (args 7 0)) (at_ 3#3 64#7 [] [some .ok]))).map (fun t => (result t, t.shadow.page, t.shadow.col)) =
      some ((.ok, 1, some [0x00#8, 0xB7#8]), some 7#3, none) := by decide +kernel
/-- V-E2: the range check comes before the write that would fail. -/
theorem test_setPage_range :
    (after (exec (.setPage (args 8 0)) (ready [some (.err e1)]))).map result = some (.rangeViolation, 0, none) := by
  decide +kernel
/-- V-A17, V-N5. -/
theorem test_setColumn_low_nibble_first :
    (after (exec (.setColumn (args 90 0)) (ready [some .ok]))).map (fun t => (result t, t.shadow.col)) =
      some ((.ok, 1, some [0x00#8, 0x0A#8, 0x15#8]), some 90#7) := by decide +kernel
/-- V-A21: 0xFF is 255. -/
theorem test_setColumn_unsigned :
    (after (exec (.setColumn (args 0xFF 0)) (ready [some .ok]))).map result = some (.rangeViolation, 0, none) := by
  decide +kernel
/-- V-A23, V-P4. -/
theorem test_setMemPageMode_frame :
    (after (exec (.setMemPageMode (args 3 64)) (ready [some .ok]))).map (fun t => (result t, t.shadow)) =
      some ((.ok, 1, some [0x00#8, 0x20#8, 0x02#8, 0xB3#8, 0x00#8, 0x14#8]),
        { page := some 3#3, col := some 64#7, mode := some .page, ram := [] }) := by decide +kernel
/-- V-A26. -/
theorem test_setMemPageMode_column_range :
    (after (exec (.setMemPageMode (args 0 128)) (ready [some .ok]))).map result = some (.rangeViolation, 0, none) := by
  decide +kernel
/-- V-C1, V-S9, V-N9. -/
theorem test_init_frame :
    (after (exec (.init (args 0 0)) (ready [some .ok]))).map State.log =
      some [{ addr := 0x3C#7,
              bytes := [0x00#8, 0xAE#8, 0xA8#8, 0x3F#8, 0xD3#8, 0x00#8, 0x40#8, 0xA0#8, 0xC0#8, 0xDA#8, 0x12#8,
                0x81#8, 0x7F#8, 0xA4#8, 0xA6#8, 0xD5#8, 0x80#8, 0x8D#8, 0x14#8, 0xAF#8],
              answer := .ok }] := by decide +kernel
/-- Program 4 cut to its first three frames: the third write fails. -/
theorem test_clear_stops :
    (after (exec (.clear (args 0 0)) (ready [some .ok, some .ok, some (.err e1), some .ok]))).map
      (fun t => ((t.status, t.terr, t.seq), t.log.map LogRecord.bytes, t.shadow)) =
      some ((.transportError, e1, 2#5),
        [[0x00#8, 0xB0#8], [0x00#8, 0x00#8, 0x10#8], 0x40#8 :: List.replicate 128 0x00#8], unknownShadow) := by
  decide +kernel
/-- Program 3: the frames of the statements are its 26 frames, 1077 bytes in all. -/
theorem test_clear_frames : clearFrames.length = 26 ∧ (clearFrames.map List.length).sum = 1077 ∧
    clearFrames[21]? = some [0x00#8, 0xB7#8] ∧ clearFrames[24]? = some [0x00#8, 0xB0#8] := by decide +kernel
/-- V-C3, V-N4. -/
theorem test_displayOn_frame :
    (after (exec (.displayOn (args 0 0)) (ready [some .ok]))).map result = some (.ok, 1, some [0x00#8, 0xA4#8]) := by
  decide +kernel
/-- V-C4, V-P12. -/
theorem test_displayOnIgnoreRam_frame :
    (after (exec (.displayOnIgnoreRam (args 0 0)) (at_ 3#3 64#7 [] [some .ok]))).map (fun t => (result t, t.shadow.col)) =
      some ((.ok, 1, some [0x00#8, 0xA5#8]), some 64#7) := by decide +kernel
/-- V-E1. -/
theorem test_reserved_codes :
    (after (exec (.reserved9 (args 0 0)) (ready [some .ok]))).map result = some (.illegalOp, 0, none) ∧
    (after (exec (.reservedAB 1#1 (args 0 0)) (ready [some .ok]))).map result = some (.illegalOp, 0, none) ∧
    (after (exec (.reservedCF 3#2 (args 0 0)) (ready [some .ok]))).map result = some (.illegalOp, 0, none) := by decide +kernel
/-- V-F11: the alternate address. -/
theorem test_alternate_address :
    (after (exec (.sendCommands (bytes [0xAE#8])) { State.resetWith defaultParams .alternate with answers := [some .ok] })).map
      (fun t => t.log.map LogRecord.addr) = some [0x3D#7] := by decide +kernel
/-- V-P19: a failed DATA write makes the cells it names unknown, others keep their values. -/
theorem test_failed_data :
    (after (exec (.sendData (bytes [0x01#8, 0x02#8]))
        (at_ 3#3 64#7 [(447, 7#8), (448, 7#8), (449, 7#8), (450, 7#8)] [some (.err e1)]))).map State.shadow =
      some { page := none, col := none, mode := none, ram := [(447, 7#8), (450, 7#8)] } := by decide +kernel
/-- V-P14: one nibble alone. -/
theorem test_lone_nibble :
    (after (exec (.sendCommands (bytes [0x05#8])) (at_ 3#3 64#7 [(0, 1#8)] [some .ok]))).map State.shadow =
      some unknownShadow := by decide +kernel

/-! ### Bus instructions -/

theorem test_ctrlCommand_begins :
    (after (exec .ctrlCommand { State.reset with bus := [0xB1#8] })).map State.rx =
      some { mode := .command, low := none } := by decide +kernel
theorem test_ctrlData_begins :
    (after (exec .ctrlData { State.reset with bus := [0xB1#8] })).map State.rx = some { mode := .data, low := none } := by
  decide +kernel
/-- V-P7 as one byte. -/
theorem test_dataByte_lands :
    (after (exec (.dataByte 0x01#8) (at_ 3#3 126#7 [] []))).map State.shadow =
      some { page := some 3#3, col := some 127#7, mode := some .page, ram := [(510, 0x01#8)] } := by decide +kernel
/-- V-P13. -/
theorem test_cmdPageStart :
    (after (exec (.cmdPageStart 1#3) (at_ 3#3 64#7 [] []))).map State.shadow =
      some { page := some 1#3, col := none, mode := some .page, ram := [] } := by decide +kernel
/-- V-P15 as two instructions. -/
theorem test_column_pair :
    ((after (exec (.cmdColLow 0xA#4) { at_ 3#3 64#7 [] [] with bus := [0x15#8] })).bind
      (fun t => after (exec (.cmdColHigh 5#3) { t with bus := [] }))).map State.shadow =
      some { page := some 3#3, col := some 90#7, mode := some .page, ram := [] } := by decide +kernel
theorem test_cmdAddrModePage :
    (after (exec .cmdAddrModePage State.reset)).map (fun t => t.shadow.mode) = some (some .page) := by decide +kernel
/-- V-P11, V-P12 as single commands: the shadow state stays. -/
theorem test_panel_commands_keep_pointer :
    ([Instr.cmdEntireOnResume, .cmdEntireOnIgnoreRam, .cmdDisplayOff, .cmdMuxRatio, .cmdDisplayOffset, .cmdStartLine0,
      .cmdSegmentRemap0, .cmdComScanNormal, .cmdComPins, .cmdContrast, .cmdNormalDisplay, .cmdClockDiv, .cmdChargePump,
      .cmdDisplayOnPanel].all
      (fun i => (after (exec i (at_ 3#3 64#7 [] []))).map State.shadow = some (at_ 3#3 64#7 [] []).shadow)) = true := by
  decide +kernel

/-! ### Steps -/

/-- Table words run as the next step: SET_PAGE 2, and CMD_MUX_RATIO (the answer to the write is given). -/
theorem test_step_runs_table_word :
    (after (step ((ready [some .ok]).withFetchWord 24 0x20200))).map result = some (.ok, 1, some [0x00#8, 0xB2#8]) ∧
    (after (step (State.reset.withFetchWord 16 0xA83F))).map State.shadow = some unknownShadow := by decide +kernel
/-- R232, then R56: a late answer ends the request. -/
theorem test_late_answer :
    ((after (step (waiting [none, some .ok]))).bind (fun t => after (step t))).map (fun t => (result t, t.phase, t.shadow.page)) =
      some ((.ok, 1, some [0x00#8, 0xB1#8]), .idle, some 1#3) := by decide +kernel

/-! ### Witnesses: states and operands that meet the hypotheses of each statement, at the values where clauses meet -/

/-- The machine with a construction asked for. -/
def asked (phase : Phase) : State := { State.reset with phase := phase, resetIn := some .alternate }

/-- The machine with the bytes of a request on the port. -/
def presented (bs : List Byte) : State := { ready [some .ok] with hostIn := bs }

/-- The controller inside a frame. -/
def onBus (m : RxMode) (bs : List Byte) : State := { State.reset with bus := bs, rx := { mode := m, low := none } }

/-- Parameters with one default changed. -/
def faultPolicy : Params := { defaultParams with rangePolicy := .fault }

/-- The machine after reset, with that policy. -/
def faulting : State := { State.reset with params := faultPolicy }

/-- Parameters with one default changed. -/
def wrapping : Params := { defaultParams with wrapRule := .pageModeWrap }

/-- Parameters with one default changed. -/
def needing : Params := { defaultParams with dataNeedsPageMode := true }

/-- The shadow state with the pointer at a page and a column in PAGE mode. -/
def pointing (page : BitVec 3) (col : BitVec 7) : Shadow :=
  { page := some page, col := some col, mode := some .page, ram := [] }

/-- The instruction answers a next state. -/
def goes (i : Instr) (s : State) : Bool := (after (exec i s)).isSome

/-- A controller whose power-on state is known. -/
def poweredOn : Params := { defaultParams with ctrlResetState := { pointing 0#3 0#7 with ram := [(5, 9#8)] } }

/-- The first construction takes it (R7, D24); a second one does not (R253). -/
theorem test_witness_ResetMeetsInvariant :
    Memory.wf poweredOn.ctrlResetState.ram = true ∧ (State.resetWith poweredOn .primary).shadow.page = some 0#3 ∧
    (after (step { State.resetWith poweredOn .primary with resetIn := some .primary })).map State.shadow =
      some unknownShadow := by decide +kernel

theorem test_witness_ConstructionOnlyWhileIdle :
    ((asked .idle).resetIn = some .alternate ∧ (asked .idle).phase = .idle ∧
      (after (step (asked .idle))).map State.addrSel = some .alternate) ∧
    (asked .busy).resetIn = some .alternate ∧ (asked .busy).phase = .busy ∧
      refusalOf (step (asked .busy)) = some .resetWhileBusy := by decide +kernel

theorem test_witness_EveryStepKeepsInvariant :
    (presented [0x00#8, 0x05#8, 0x02#8, 0x00#8, 0x00#8]).Inv ∧
    (after (step (presented [0x00#8, 0x05#8, 0x02#8, 0x00#8, 0x00#8]))).map result = some (.ok, 1, some [0x00#8, 0xB5#8]) := by
  refine ⟨⟨?_, ?_, ?_, ?_⟩, by decide +kernel⟩
  · intro r hr; cases hr
  · exact rfl
  · intro h; cases h
  · exact ⟨by show (0#5).toNat ≤ 26; decide, rfl, by unfold latchesOk; decide +kernel⟩

theorem test_witness_EveryStepKeepsInvariant_busy :
    (waiting [some .ok]).Inv ∧
    (after (step (waiting [some .ok]))).map result = some (.ok, 1, some [0x00#8, 0xB1#8]) := by
  refine ⟨⟨?_, ?_, ?_, ?_⟩, by decide +kernel⟩
  · intro r hr; cases hr
  · exact rfl
  · exact fun _ => ⟨.setPage 1, by decide +kernel, rfl⟩
  · exact ⟨by show (0#5).toNat ≤ 26; decide, rfl, by unfold latchesOk; decide +kernel⟩

theorem test_witness_LogOnlyGrowsAndAddressStays :
    (presented [0x00#8, 0x05#8, 0x02#8, 0x00#8, 0x00#8]).resetIn = none ∧
    (after (step (presented [0x00#8, 0x05#8, 0x02#8, 0x00#8, 0x00#8]))).map (fun t => t.log.length) = some 1 := by
  decide +kernel

theorem test_witness_EveryWriteGoesToTheSelectedAddress :
    (presented [0x00#8, 0x05#8, 0x02#8, 0x00#8, 0x00#8]).resetIn = none ∧
    (after (step (presented [0x00#8, 0x05#8, 0x02#8, 0x00#8, 0x00#8]))).map (fun t => t.log.map LogRecord.addr) =
      some [0x3C#7] := by decide +kernel

theorem test_witness_IdleWithNoRequestChangesNothing :
    State.reset.resetIn = none ∧ State.reset.bus = [] ∧ State.reset.phase = .idle ∧ read .req State.reset.hostIn = none ∧
    read .req [0x00#8, 0x00#8, 0x01#8, 0x02#8, 0x00#8, 0xFF#8] = none ∧
    after (step (presented [0x00#8, 0x00#8, 0x01#8, 0x02#8, 0x00#8, 0xFF#8])) =
      some (presented [0x00#8, 0x00#8, 0x01#8, 0x02#8, 0x00#8, 0xFF#8]) := by decide +kernel

theorem test_witness_StepRunsThePresentedRequest :
    (presented [0x00#8, 0x05#8, 0x02#8, 0x00#8, 0x00#8, 0x77#8]).resetIn = none ∧
    (presented [0x00#8, 0x05#8, 0x02#8, 0x00#8, 0x00#8, 0x77#8]).bus = [] ∧
    (presented [0x00#8, 0x05#8, 0x02#8, 0x00#8, 0x00#8, 0x77#8]).phase = .idle ∧
    read .req (presented [0x00#8, 0x05#8, 0x02#8, 0x00#8, 0x00#8, 0x77#8]).hostIn =
      some (.setPage (args 5 0), [0x77#8]) := by decide +kernel

theorem test_witness_StepRunsTheBusInstruction :
    ((onBus .between [0x00#8, 0xA4#8]).rx.mode = .between ∧ read .ctrl [0x00#8, 0xA4#8] = some (.ctrlCommand, [0xA4#8]) ∧
      (after (step (onBus .between [0x00#8, 0xA4#8]))).map State.bus = some [0xA4#8]) ∧
    ((onBus .command [0xA4#8]).rx.mode = .command ∧ read .cmd [0xA4#8] = some (.cmdEntireOnResume, []) ∧
      (after (step (onBus .command [0xA4#8]))).map State.bus = some []) ∧
    (onBus .data [0xA4#8]).rx.mode = .data ∧ read .data [0xA4#8] = some (.dataByte 0xA4#8, []) ∧
      (after (step (onBus .data [0xA4#8]))).map State.bus = some [] := by decide +kernel

/-- Bytes that are no instruction, between frames and in a COMMAND payload. -/
theorem test_witness_StepRunsTheBusInstruction_stray :
    read .ctrl [0x80#8, 0x05#8] = none ∧
    after (step { at_ 3#3 64#7 [] [] with bus := [0x80#8, 0x05#8] }) = some (at_ 3#3 64#7 [] []) ∧
    read .cmd [0x18#8] = none ∧
    (after (step { onBus .command [0x18#8] with shadow := pointing 3#3 64#7 })).map State.shadow = some unknownShadow := by
  decide +kernel

theorem test_witness_RequestWaitsWhileBusy :
    (waiting [some .ok]).resetIn = none ∧ (waiting [some .ok]).bus = [] ∧ (waiting [some .ok]).phase = .busy := by
  decide +kernel

theorem test_witness_BusyUntilAnswered :
    (waiting [none, some .ok]).resetIn = none ∧ (waiting [none, some .ok]).bus = [] ∧
    (waiting [none, some .ok]).phase = .busy ∧ nextAnswer (waiting [none, some .ok]) = none := by
  decide +kernel

/-- `k = 0` and `k = 1`. -/
theorem test_witness_LateAnswerChangesNothing :
    (isRequest (.setPage (args 1 0)) = true ∧
      (ready [none, some .ok]).answers = List.replicate 0 (some .ok) ++ none :: [some .ok] ∧
      (after (exec (.setPage (args 1 0)) (ready [none, some .ok]))).map State.phase = some .busy) ∧
    isRequest (.clear (args 0 0)) = true ∧
      (ready [some .ok, none, some (.err e1)]).answers = List.replicate 1 (some .ok) ++ none :: [some (.err e1)] ∧
      (after (exec (.clear (args 0 0)) (ready [some .ok, none, some (.err e1)]))).map State.phase = some .busy := by
  decide +kernel

/-- With the default widths and with others, and a command. -/
theorem test_witness_DecodeUndoesEncode :
    (Instr.sendData (bytes [0xFF#8])).wellFormed defaultParams = true ∧
    (Instr.reservedCF 3#2 (args 0xFF 0xFF)).wellFormed defaultParams = true ∧
    (Instr.setPage (args 0xFFF 0xFFF)).wellFormed wide = true ∧
    encodeWith wide (.setPage (args 0xFFF 0xFFF)) = [0xFF#8, 0xFF#8, 0xFF#8, 0x02#8, 0x00#8, 0x00#8] ∧
    (Instr.cmdPageStart 7#3).wellFormed wide = true ∧ (Instr.cmdPageStart 7#3).format = .cmd ∧
    wide.addrModePageSeq.bytes = [0x20#8, 0x02#8] ∧ wide.entireOnIgnoreRam = 0xA5#8 := by decide +kernel

/-- The bits of the port that are part of no field: four above the header, and six above a `plen` of 10 bits. -/
theorem test_witness_EncodeUndoesDecode :
    read .req [0xFF#8, 0xFF#8, 0xFF#8, 0x00#8, 0x00#8, 0x01#8] = some (.reservedCF 3#2 (args 0xFF 0xFF), [0x01#8]) ∧
    portBits defaultParams .req [0xFF#8, 0xFF#8, 0xFF#8, 0x00#8, 0x00#8, 0x01#8] =
      [0xFF#8, 0xFF#8, 0x0F#8, 0x00#8, 0x00#8, 0x01#8] ∧
    portBits wide .req [0xFF#8, 0xFF#8, 0xFF#8, 0xFF#8, 0xFF#8, 0xFF#8] =
      [0xFF#8, 0xFF#8, 0xFF#8, 0x0F#8, 0xFF#8, 0x03#8] ∧
    defaultParams.addrModePageSeq.bytes = [0x20#8, 0x02#8] ∧ defaultParams.entireOnIgnoreRam = 0xA5#8 ∧
    read .cmd [0xDA#8, 0x12#8] = some (.cmdComPins, []) := by decide +kernel

/-- Payloads of 0 and of 128 bytes, and both answers. -/
theorem test_witness_SendCommandsWritesOneFrame :
    (ready [some .ok]).phase = .idle ∧ nextAnswer (ready [some .ok]) = some .ok ∧
    nextAnswer (ready [some (.err e1)]) = some (.err e1) ∧
    (bytes []).payload.length ≤ 128 ∧ (bytes (List.replicate 128 0xAE#8)).payload.length ≤ 128 ∧
    goes (.sendCommands (bytes [])) (ready [some (.err e1)]) = true ∧
    goes (.sendCommands (bytes (List.replicate 128 0xAE#8))) (ready [some .ok]) = true := by decide +kernel

theorem test_witness_SendDataWritesOneFrame :
    (ready [some .ok]).phase = .idle ∧ nextAnswer (ready [some .ok]) = some .ok ∧
    (bytes []).payload.length ≤ 128 ∧ (bytes (List.replicate 128 0xAE#8)).payload.length ≤ 128 ∧
    goes (.sendData (bytes [])) (ready [some (.err e1)]) = true ∧
    goes (.sendData (bytes (List.replicate 128 0xAE#8))) (ready [some .ok]) = true := by decide +kernel

/-- Payloads of 128 and of 129 bytes, and an error. -/
theorem test_witness_PrimitiveAddsOneRecordOrNone :
    (ready [some .ok]).phase = .idle ∧ nextAnswer (ready [some .ok]) = some .ok ∧
    (after (exec (.sendData (bytes (List.replicate 128 1#8))) (ready [some .ok]))).map
      (fun t => (t.phase, t.status, t.log.length)) = some (.idle, .ok, 1) ∧
    (after (exec (.sendData (bytes (List.replicate 129 1#8))) (ready [some .ok]))).map
      (fun t => (t.phase, t.status, t.log.length)) = some (.idle, .bufferTooSmall, 0) ∧
    (after (exec (.sendCommands (bytes [1#8])) (ready [some (.err e1)]))).map
      (fun t => (t.status, t.terr, t.log.length)) = some (.transportError, e1, 1) := by decide +kernel

theorem test_witness_UnansweredPrimitiveHasNoRecord :
    (ready [none]).phase = .idle ∧ (bytes (List.replicate 128 1#8)).payload.length ≤ 128 ∧ nextAnswer (ready [none]) = none ∧
    (after (exec (.sendCommands (bytes (List.replicate 128 1#8))) (ready [none]))).map
      (fun t => (t.phase, t.log.length, t.payload)) = some (.busy, 0, []) := by decide +kernel

theorem test_witness_SetPageWritesPageStart :
    (ready [some .ok]).phase = .idle ∧ nextAnswer (ready [some .ok]) = some .ok ∧ (args 7 0).arg0 < 8 ∧
    (after (exec (.setPage (args 7 0)) (ready [some (.err e1)]))).map State.shadow = some unknownShadow := by
  decide +kernel

theorem test_witness_SetColumnWritesNibblePair :
    (ready [some .ok]).phase = .idle ∧ nextAnswer (ready [some .ok]) = some .ok ∧ (args 127 0).arg0 < 128 ∧
    (after (exec (.setColumn (args 127 0)) (ready [some .ok]))).map (fun t => t.shadow.col) = some (some 127#7) := by
  decide +kernel

theorem test_witness_SetMemPageModeWritesOneFrame :
    (ready [some .ok]).phase = .idle ∧ nextAnswer (ready [some .ok]) = some .ok ∧
    (args 7 127).arg0 < 8 ∧ (args 7 127).arg1 < 128 ∧
    (after (exec (.setMemPageMode (args 7 127)) (ready [some .ok]))).map State.shadow = some (pointing 7#3 127#7) := by
  decide +kernel

theorem test_witness_InitWritesTheSequence :
    (at_ 3#3 64#7 [] [some .ok]).phase = .idle ∧ nextAnswer (at_ 3#3 64#7 [] [some .ok]) = some .ok ∧
    (after (exec (.init (args 0 0)) (at_ 3#3 64#7 [] [some .ok]))).map State.shadow = some (pointing 3#3 64#7) := by
  decide +kernel

theorem test_witness_DisplayOnWritesResume :
    (at_ 3#3 64#7 [] [some .ok]).phase = .idle ∧ nextAnswer (at_ 3#3 64#7 [] [some .ok]) = some .ok ∧
    (after (exec (.displayOn (args 0 0)) (at_ 3#3 64#7 [] [some .ok]))).map State.shadow = some (pointing 3#3 64#7) := by
  decide +kernel

theorem test_witness_DisplayOnIgnoreRamWritesItsByte :
    (ready [some .ok]).phase = .idle ∧ nextAnswer (ready [some .ok]) = some .ok ∧
    (ready [some .ok]).params.entireOnIgnoreRam &&& 0xF8#8 ≠ 0xB0#8 := by decide +kernel

/-- Both ways the last hypothesis can hold. -/
theorem test_witness_ClearWritesAllFrames :
    (ready (List.replicate 26 (some .ok))).phase = .idle ∧
    (ready (List.replicate 26 (some .ok))).answers = List.replicate 26 (some .ok) ++ [] ∧
    (ready (List.replicate 26 (some .ok))).params.dataNeedsPageMode = false ∧
    (at_ 0#3 0#7 [] (List.replicate 26 (some .ok))).shadow.mode = some .page := by decide +kernel

/-- A failed DATA write of the first page: its row is unknown, the others keep what they held. -/
theorem test_witness_ClearAbortsAtTheFirstError_row :
    (at_ 0#3 0#7 [(5, 9#8), (128, 7#8)] [some .ok, some .ok, some (.err e1)]).answers =
      List.replicate 2 (some .ok) ++ some (.err e1) :: [] ∧
    (after (exec (.clear (args 0 0)) (at_ 0#3 0#7 [(5, 9#8), (128, 7#8)] [some .ok, some .ok, some (.err e1)]))).map
      (fun t => (t.seq, t.shadow.ram)) = some (2#5, [(128, 7#8)]) := by decide +kernel

/-- The first write and the last. -/
theorem test_witness_ClearAbortsAtTheFirstError :
    (ready [some (.err e1)]).phase = .idle ∧
    (ready [some (.err e1)]).answers = List.replicate 0 (some .ok) ++ some (.err e1) :: [] ∧
    (ready (List.replicate 25 (some .ok) ++ [some (.err e1)])).answers =
      List.replicate 25 (some .ok) ++ some (.err e1) :: [] ∧
    isTerr (ready [some (.err e1)]).params e1 = true ∧ (ready [some (.err e1)]).params.dataNeedsPageMode = false ∧
    (after (exec (.clear (args 0 0)) (ready [some (.err e1)]))).map (fun t => (result t, t.seq)) =
      some ((.transportError, 1, some [0x00#8, 0xB0#8]), 0#5) := by decide +kernel

theorem test_witness_ClearWritesAPrefixOfItsFrames :
    (ready [some .ok, none]).phase = .idle ∧
    (after (exec (.clear (args 0 0)) (ready [some .ok, none]))).map (fun t => (t.phase, t.log.length)) =
      some (.busy, 1) := by decide +kernel

theorem test_witness_ReservedCodesAnswerIllegalOp :
    (ready []).phase = .idle ∧ after (exec (.reserved9 (args 1 2)) (ready [])) =
      some { ready [] with status := .illegalOp, seq := 0#5 } := by decide +kernel

/-- The first value out of range of each check, the other argument in range. -/
theorem test_witness_RangeViolationIsReported :
    (ready []).phase = .idle ∧ (ready []).params.rangePolicy = .report ∧ 8 ≤ (args 8 0).arg0 ∧
    128 ≤ (args 128 0).arg0 ∧ 128 ≤ (args 7 128).arg1 ∧
    (after (exec (.setPage (args 8 0)) (ready []))).map State.status = some .rangeViolation ∧
    (after (exec (.setColumn (args 128 0)) (ready []))).map State.status = some .rangeViolation ∧
    (after (exec (.setMemPageMode (args 8 127)) (ready []))).map State.status = some .rangeViolation ∧
    (after (exec (.setMemPageMode (args 7 128)) (ready []))).map State.status = some .rangeViolation := by
  decide +kernel

theorem test_witness_RangeViolationFaults :
    faulting.phase = .idle ∧
    faulting.params.rangePolicy = .fault ∧
    faultOf (exec (.setPage (args 8 0)) faulting) = some .rangeViolation ∧
    faultOf (exec (.setColumn (args 128 0)) faulting) = some .rangeViolation ∧
    faultOf (exec (.setMemPageMode (args 8 127)) faulting) = some .rangeViolation ∧
    faultOf (exec (.setMemPageMode (args 7 128)) faulting) = some .rangeViolation := by
  decide +kernel

theorem test_witness_OversizePayloadIsRejected :
    (ready []).phase = .idle ∧ 128 < (bytes (List.replicate 129 0#8)).payload.length ∧
    (after (exec (.sendCommands (bytes (List.replicate 129 0#8))) (ready []))).map State.status = some .bufferTooSmall := by
  decide +kernel

theorem test_witness_RequestsAreRefusedWhileBusy :
    isRequest (.clear (args 0 0)) = true ∧ isRequest (.reserved9 (args 0 0)) = true ∧ (waiting []).phase = .busy := by
  decide +kernel

theorem test_witness_TransportErrorIsForwarded :
    isRequest (.setColumn (args 5 0)) = true ∧ (ready [some (.err e1)]).phase = .idle ∧
    nextAnswer (ready [some (.err e1)]) = some (.err e1) ∧
    (after (exec (.setColumn (args 5 0)) (ready [some (.err e1)]))).map
      (fun t => decide (t.log ≠ (ready [some (.err e1)]).log)) = some true := by decide +kernel

/-- A transport with one error value: it gives that one and no other. -/
theorem test_witness_EveryErrorIsOneOfTheTransports :
    (ready []).resetIn = none ∧ isTerr { defaultParams with terrCount := some 0 } e1 = false ∧
    isTerr { defaultParams with terrCount := some 1 } { label := 0 } = true ∧
    (after (step { waiting [some (.err e1)] with params := { defaultParams with terrCount := some 1 } })).map
      (fun t => (t.phase, t.log.length)) = some (.busy, 0) ∧
    (after (step (waiting [some (.err e1)]))).map (fun t => (t.status, t.terr)) = some (.transportError, e1) := by
  decide +kernel

theorem test_witness_ShadowStateIsNeverRead :
    (presented [0x00#8, 0x05#8, 0x02#8, 0x00#8, 0x00#8]).bus = [] ∧
    (after (step (presented [0x00#8, 0x05#8, 0x02#8, 0x00#8, 0x00#8]))).isSome = true := by decide +kernel

theorem test_witness_ResponseRegistersAreNeverRead :
    (after (step (waiting [some (.err e1)]))).map (fun t => (t.status, t.terr)) = some (.transportError, e1) := by
  decide +kernel

theorem test_witness_StaleBufferIsNeverRead :
    isRequest (.init (args 0 0)) = true ∧ goes (.init (args 0 0)) (ready [some .ok]) = true := by decide +kernel

theorem test_witness_RequestsLeaveTheRestAlone :
    isRequest (.setPage (args 1 0)) = true ∧ goes (.setPage (args 1 0)) (ready [some .ok]) = true := by
  decide +kernel

theorem test_witness_AddressingRequestsStoreNothing :
    ([Instr.setPage (args 1 0), .setColumn (args 1 0), .setMemPageMode (args 1 0), .init (args 1 0),
      .displayOn (args 1 0), .displayOnIgnoreRam (args 1 0), .reserved9 (args 1 0),
      .reservedAB 0#1 (args 1 0), .reservedCF 0#2 (args 1 0)].all
        (fun i => goes i (at_ 3#3 64#7 [(5, 9#8)] [some .ok]))) = true := by decide +kernel

/-- Each class and payloads of none. -/
theorem test_witness_OtherPayloadsForget :
    defaultParams.otherCmdEffect = .unknown ∧ defaultParams.entireOnIgnoreRam = 0xA5#8 ∧
    classify defaultParams [] = .k0 ∧ classify defaultParams [0xB7#8] = .k1 7#3 ∧
    classify defaultParams [0x0F#8, 0x17#8] = .k2 127#7 ∧
    classify defaultParams [0x20#8, 0x02#8, 0xB0#8, 0x00#8, 0x10#8] = .k3 0#3 0#7 ∧
    classify defaultParams [0xA4#8] = .k4 ∧ classify defaultParams [0xA5#8] = .k4 ∧
    classify defaultParams initSeq = .k5 ∧ classify defaultParams [0x0A#8, 0x1F#8] = .k6 ∧
    classify defaultParams [0xB8#8] = .k6 := by decide +kernel

theorem test_witness_PointerPayloadEffects :
    defaultParams.entireOnIgnoreRam &&& 0xF8#8 ≠ 0xB0#8 ∧
    shadowApply defaultParams [0x00#8, 0xA5#8] (pointing 3#3 64#7) = pointing 3#3 64#7 ∧
    classify defaultParams [0x0F#8, 0x18#8] = .k6 := by decide +kernel

theorem test_witness_LoneNibbleForgets :
    defaultParams.otherCmdEffect = .unknown ∧ defaultParams.entireOnIgnoreRam = 0xA5#8 ∧
    (0x0#4 ++ 0xF#4 : Byte) = 0x0F#8 ∧ (0x1#4 ++ 0xF#4 : Byte) = 0x1F#8 := by decide +kernel

/-- One byte at column 126, the last that stays short of the end, with the mode PAGE demanded and not. -/
theorem test_witness_DataLandsInTheRow :
    pointsAt defaultParams (pointing 3#3 126#7) 3#3 126#7 ∧ pointsAt needing (pointing 3#3 126#7) 3#3 126#7 ∧
    (126#7).toNat + [1#8].length ≤ 127 := by unfold pointsAt; decide +kernel

/-- Each way a pointer can name no cell. -/
theorem test_witness_DataAtUnknownPointerForgets :
    [1#8] ≠ [] ∧ pointsNowhere defaultParams unknownShadow ∧
    pointsNowhere defaultParams { pointing 3#3 0#7 with col := none } ∧
    pointsNowhere needing { pointing 3#3 0#7 with mode := some .vertical } := by unfold pointsNowhere; decide +kernel

/-- Lengths that end at column 127 and one past it; the second premise holds in either way. -/
theorem test_witness_RowEndForgetsThePointer :
    pointsAt defaultParams (pointing 3#3 126#7) 3#3 126#7 ∧ defaultParams.wrapRule = .unknown ∧
    pointsAt wrapping { pointing 3#3 126#7 with mode := none } 3#3 126#7 ∧
    (126#7).toNat + [1#8, 2#8].length = 128 ∧ 128 < (126#7).toNat + [1#8, 2#8, 3#8].length ∧
    shadowApply wrapping [0x40#8, 1#8, 2#8] { pointing 3#3 126#7 with mode := none } =
      { page := none, col := none, mode := none, ram := [(510, 1#8), (511, 2#8)] } := by unfold pointsAt; decide +kernel

theorem test_witness_RowEndWrapsInPageMode :
    wrapping.wrapRule = .pageModeWrap ∧ (pointing 3#3 127#7).mode = some .page ∧ (pointing 3#3 127#7).page = some 3#3 ∧
    (pointing 3#3 127#7).col = some 127#7 ∧ 128 ≤ (127#7).toNat + [1#8, 2#8].length ∧ [1#8, 2#8].length ≤ 128 ∧
    shadowApply wrapping [0x40#8, 1#8, 2#8] (pointing 3#3 127#7) =
      { pointing 3#3 1#7 with ram := [(384, 2#8), (511, 1#8)] } := by decide +kernel

/-- A failed write that ends at column 127 and one that passes it; a recognised command and another. -/
theorem test_witness_FailedWriteForgets :
    pointsAt defaultParams (pointing 3#3 126#7) 3#3 126#7 ∧ (126#7).toNat + [1#8, 2#8].length ≤ 128 ∧
    128 < (126#7).toNat + [1#8, 2#8, 3#8].length ∧ [1#8, 2#8] ≠ [] ∧ pointsNowhere defaultParams unknownShadow ∧
    classify defaultParams [0xB1#8] ≠ .k6 ∧ classify defaultParams [0x05#8] = .k6 := by
  unfold pointsAt pointsNowhere; decide +kernel

/-- A COMMAND frame of two instructions, a DATA frame, and a control byte alone. -/
theorem test_witness_FrameTakenBytewiseIsShadowApply :
    (onBus .between [0x00#8, 0x0A#8, 0x15#8]).rx = rxBetween ∧ State.reset.resetIn = none ∧
    State.reset.params.addrModePageSeq.bytes = [0x20#8, 0x02#8] ∧ State.reset.params.entireOnIgnoreRam = 0xA5#8 ∧
    (((after (step (onBus .between [0x00#8, 0x0A#8, 0x15#8]))).bind (fun t => after (step t))).bind
      (fun t => after (step t))).map (fun t => (t.bus, t.shadow.col, t.rx)) = some ([], some 90#7, rxBetween) ∧
    (after (step (onBus .between [0x40#8]))).map (fun t => (t.bus, t.rx)) = some ([], rxBetween) := by decide +kernel

theorem test_witness_ControlBytesBeginAPayload :
    State.reset.bus = [] ∧ (onBus .between [0x15#8]).bus ≠ [] ∧
    classify State.reset.params [0xB1#8] ≠ .k6 ∧ classify State.reset.params [0x15#8] = .k6 := by decide +kernel

/-- At column 127 with the pointer lost, and with it wrapped; and at a pointer that names no cell. -/
theorem test_witness_DataByteLandsAndAdvances :
    pointsAt defaultParams (at_ 7#3 127#7 [] []).shadow 7#3 127#7 ∧ pointsNowhere State.reset.params State.reset.shadow ∧
    (after (exec (.dataByte 1#8) (at_ 7#3 127#7 [] []))).map State.shadow =
      some { page := none, col := none, mode := some .page, ram := [(1023, 1#8)] } ∧
    (after (exec (.dataByte 1#8) { at_ 7#3 127#7 [] [] with params := wrapping })).map State.shadow =
      some { page := some 7#3, col := some 0#7, mode := some .page, ram := [(1023, 1#8)] } := by
  unfold pointsAt pointsNowhere; decide +kernel

theorem test_witness_NibblePairSetsTheColumn :
    (onBus .command [0x15#8]).bus ≠ [] ∧ (onBus .command [0x15#8]).rx.low = none := by decide +kernel

theorem test_witness_PanelCommandsWriteNothing :
    Instr.cmdComPins ∈ [Instr.cmdEntireOnResume, .cmdEntireOnIgnoreRam, .cmdDisplayOff, .cmdMuxRatio, .cmdDisplayOffset,
      .cmdStartLine0, .cmdSegmentRemap0, .cmdComScanNormal, .cmdComPins, .cmdContrast, .cmdNormalDisplay, .cmdClockDiv,
      .cmdChargePump, .cmdDisplayOnPanel] := by decide +kernel

theorem test_witness_BusInstructionsTouchOnlyTheController :
    isRequest (.dataByte 1#8) = false ∧ goes (.dataByte 1#8) (onBus .data [2#8]) = true ∧
    isRequest .ctrlCommand = false ∧ goes .ctrlCommand (onBus .between [0x15#8]) = true := by decide +kernel

end Sys2Proof.Tests
end

section
/-! PROOFS. What the decoder and the encoder do to each other's answers (30_encoding R80 to R101). -/

namespace Sys2Proof

open Sys2Proof.Machine

/-! ### Numbers and their bytes -/

/-- As many bytes as hold `bits` bits name every number of that many bits. -/
theorem two_pow_le_byteCount (bits : Nat) : 2 ^ bits ≤ 256 ^ byteCount bits := by
  have h256 : 256 ^ byteCount bits = 2 ^ (8 * byteCount bits) := by rw [Nat.pow_mul]
  rw [h256]
  exact Nat.pow_le_pow_right (by decide) (by unfold byteCount; omega)

/-- A number of `bits` bits is read back from its bytes. -/
theorem ofBytes_toBytes_byteCount {bits v : Nat} (h : v < 2 ^ bits) : ofBytes (toBytes (byteCount bits) v) = v := by
  rw [ofBytes_toBytes, Nat.mod_eq_of_lt (Nat.lt_of_lt_of_le h (two_pow_le_byteCount bits))]

/-! ### The header word (R80) -/

theorem two_pow_headerBits (p : Params) :
    2 ^ headerBits p = 2 ^ p.argWidth.bits * (2 ^ p.argWidth.bits * 16) := by
  have hbits : headerBits p = p.argWidth.bits + (p.argWidth.bits + 4) := by unfold headerBits; omega
  rw [hbits, Nat.pow_add, Nat.pow_add]

/-- A digit below `n` after a number below `m`. -/
theorem mul_add_lt_mul {a b m n : Nat} (ha : a < m) (hb : b < n) : a * n + b < m * n :=
  calc a * n + b < a * n + n := Nat.add_lt_add_left hb _
    _ = (a + 1) * n := (Nat.succ_mul a n).symm
    _ ≤ m * n := Nat.mul_le_mul_right n ha

/-- The header of arguments that fit is a number of `headerBits` bits. -/
theorem headerWord_lt {p : Params} (op : BitVec 4) {a b : Nat} (ha : a < 2 ^ p.argWidth.bits)
    (hb : b < 2 ^ p.argWidth.bits) : headerWord p op a b < 2 ^ headerBits p := by
  have h := mul_add_lt_mul (mul_add_lt_mul op.isLt ha) hb
  rwa [Nat.mul_comm (2 ^ 4 * _), Nat.mul_comm (2 ^ 4), ← two_pow_headerBits] at h

/-- What lies above `arg1` in a header word. -/
theorem headerWord_div {p : Params} (op : BitVec 4) (a : Nat) {b : Nat} (hb : b < 2 ^ p.argWidth.bits) :
    headerWord p op a b / 2 ^ p.argWidth.bits = op.toNat * 2 ^ p.argWidth.bits + a := by
  rw [headerWord, Nat.mul_comm, Nat.mul_add_div (Nat.two_pow_pos _), Nat.div_eq_of_lt hb, Nat.add_zero]

theorem arg1Of_headerWord {p : Params} (op : BitVec 4) (a : Nat) {b : Nat} (hb : b < 2 ^ p.argWidth.bits) :
    arg1Of p (headerWord p op a b) = b := Nat.mul_add_mod_of_lt hb

theorem arg0Of_headerWord {p : Params} (op : BitVec 4) {a b : Nat} (ha : a < 2 ^ p.argWidth.bits)
    (hb : b < 2 ^ p.argWidth.bits) : arg0Of p (headerWord p op a b) = a := by
  rw [arg0Of, headerWord_div op a hb, Nat.mul_add_mod_of_lt ha]

theorem opOf_headerWord {p : Params} (op : BitVec 4) {a b : Nat} (ha : a < 2 ^ p.argWidth.bits)
    (hb : b < 2 ^ p.argWidth.bits) : opOf p (headerWord p op a b) = op := by
  rw [opOf, headerWord_div op a hb, Nat.mul_comm, Nat.mul_add_div (Nat.two_pow_pos _), Nat.div_eq_of_lt ha,
    Nat.add_zero, BitVec.ofNat_toNat, BitVec.setWidth_eq]

/-- The fields that are read from a number are the whole of its header bits. -/
theorem headerWord_of_fields (p : Params) (h : Nat) :
    headerWord p (opOf p h) (arg0Of p h) (arg1Of p h) = h % 2 ^ headerBits p := by
  have hop : (opOf p h).toNat = h / 2 ^ p.argWidth.bits / 2 ^ p.argWidth.bits % 16 := BitVec.toNat_ofNat _ _
  rw [two_pow_headerBits, Nat.mod_mul, Nat.mod_mul, headerWord, hop, arg0Of, arg1Of]
  simp only [Nat.add_comm, Nat.mul_comm]

/-! ### The head of a request -/

/-- The three fields of a request fit their widths (R7, R80). -/
def ReqArgs.fits (p : Params) (f : ReqArgs) : Prop :=
  f.arg0 < 2 ^ p.argWidth.bits ∧ f.arg1 < 2 ^ p.argWidth.bits ∧ f.plen < 2 ^ p.lenWidth.bits

/-- A request is well formed where its fields fit. -/
theorem wellFormed_iff_fits {p : Params} {i : Instr} {f : ReqArgs} (h : i.requestFields = some f) :
    i.wellFormed p = true ↔ f.fits p := by
  simp [Instr.wellFormed, h, FieldWidth.fits, ReqArgs.fits, and_assoc]

/-- The fixed part of a request is read back from its bytes, whatever follows. -/
theorem decodeRequest_encodeHead {p : Params} (op : BitVec 4) {f : ReqArgs} (hf : f.fits p) (rest : List Byte) :
    decodeRequest p (encodeHead p op f ++ rest) = decodeBody op f rest := by
  obtain ⟨h0, h1, hl⟩ := hf
  have hlen : (encodeHead p op f).length = headerBytes p + plenBytes p := by simp [encodeHead]
  have hlong : ¬ (encodeHead p op f ++ rest).length < headerBytes p + plenBytes p := by simp [hlen]
  have hword : ofBytes (toBytes (headerBytes p) (headerWord p op f.arg0 f.arg1)) = headerWord p op f.arg0 f.arg1 :=
    ofBytes_toBytes_byteCount (headerWord_lt op h0 h1)
  have hplen : ofBytes (toBytes (plenBytes p) f.plen) = f.plen := ofBytes_toBytes_byteCount hl
  rw [decodeRequest, if_neg hlong, List.drop_left' hlen]
  simp [encodeHead, hword, hplen, opOf_headerWord op h0 h1, arg0Of_headerWord op h0 h1,
    arg1Of_headerWord op f.arg0 h1, Nat.mod_eq_of_lt hl]

/-! ### Requests: operation code, head and payload -/

/-- A payload is read where it is there whole: as many bytes as `plen` says (R80). -/
theorem decodeSend_eq_ok {make : SendArgs → Instr} {f : ReqArgs} {bs rest : List Byte} {i : Instr} :
    decodeSend make f bs = .ok (i, rest) ↔
      ∃ payload, payload.length = f.plen ∧ bs = payload ++ rest ∧
        i = make { arg0 := f.arg0, arg1 := f.arg1, payload := payload } := by
  unfold decodeSend
  constructor
  · intro h
    split at h
    · cases h
    · cases h
      exact ⟨bs.take f.plen, by simp; omega, (List.take_append_drop _ _).symm, rfl⟩
  · rintro ⟨payload, hlen, rfl, rfl⟩
    simp [← hlen]

/-- An operation without a payload has its code in the header, each reserved code its own. -/
theorem encodeWith_requestOf (p : Params) {op : BitVec 4} (r : ReqArgs) (h0 : op ≠ 0x0#4) (h1 : op ≠ 0x1#4) :
    encodeWith p (requestOf op r) = encodeHead p op r := by
  have hop : op = 0x2#4 ∨ op = 0x3#4 ∨ op = 0x4#4 ∨ op = 0x5#4 ∨ op = 0x6#4 ∨ op = 0x7#4 ∨ op = 0x8#4 ∨
      op = 0x9#4 ∨ op = 0xA#4 ∨ op = 0xB#4 ∨ op = 0xC#4 ∨ op = 0xD#4 ∨ op = 0xE#4 ∨ op = 0xF#4 := by
    decide +revert
  rcases hop with rfl | rfl | rfl | rfl | rfl | rfl | rfl | rfl | rfl | rfl | rfl | rfl | rfl | rfl <;> rfl

/-- What is read after the head of a request is its payload, and its bytes are that head and that payload. -/
theorem encodeWith_of_decodeBody {op : BitVec 4} {f : ReqArgs} {bs rest : List Byte} {i : Instr}
    (h : decodeBody op f bs = .ok (i, rest)) (p : Params) : encodeWith p i ++ rest = encodeHead p op f ++ bs := by
  unfold decodeBody at h
  split at h
  · subst op
    obtain ⟨payload, hlen, rfl, rfl⟩ := decodeSend_eq_ok.mp h
    simp [encodeWith, encodeSend, hlen]
  · split at h
    · subst op
      obtain ⟨payload, hlen, rfl, rfl⟩ := decodeSend_eq_ok.mp h
      simp [encodeWith, encodeSend, hlen]
    · cases h
      rw [encodeWith_requestOf p f ‹_› ‹_›]

/-- Every request has an operation code, fields and a payload: its bytes are their head and that payload, and
the payload is read after such a head. -/
theorem encodeWith_request {i : Instr} (hi : i.format = .req) :
    ∃ op f payload, i.requestFields = some f ∧ (∀ p, encodeWith p i = encodeHead p op f ++ payload) ∧
      ∀ rest, decodeBody op f (payload ++ rest) = .ok (i, rest) := by
  have hnil : ∀ op f p, encodeHead p op f = encodeHead p op f ++ [] := fun _ _ _ => (List.append_nil _).symm
  cases i with
  | sendCommands r =>
    exact ⟨0x0#4, _, r.payload, rfl, fun _ => rfl, fun _ => decodeSend_eq_ok.mpr ⟨r.payload, rfl, rfl, rfl⟩⟩
  | sendData r =>
    exact ⟨0x1#4, _, r.payload, rfl, fun _ => rfl, fun _ => decodeSend_eq_ok.mpr ⟨r.payload, rfl, rfl, rfl⟩⟩
  | setPage r => exact ⟨0x2#4, r, [], rfl, hnil _ r, fun _ => rfl⟩
  | setColumn r => exact ⟨0x3#4, r, [], rfl, hnil _ r, fun _ => rfl⟩
  | setMemPageMode r => exact ⟨0x4#4, r, [], rfl, hnil _ r, fun _ => rfl⟩
  | init r => exact ⟨0x5#4, r, [], rfl, hnil _ r, fun _ => rfl⟩
  | clear r => exact ⟨0x6#4, r, [], rfl, hnil _ r, fun _ => rfl⟩
  | displayOn r => exact ⟨0x7#4, r, [], rfl, hnil _ r, fun _ => rfl⟩
  | displayOnIgnoreRam r => exact ⟨0x8#4, r, [], rfl, hnil _ r, fun _ => rfl⟩
  | reserved9 r => exact ⟨0x9#4, r, [], rfl, hnil _ r, fun _ => rfl⟩
  | reservedAB low r =>
    have hlow : low = 0#1 ∨ low = 1#1 := by clear hi; decide +revert
    exact ⟨0b101#3 ++ low, r, [], rfl, hnil _ r, by rcases hlow with rfl | rfl <;> exact fun _ => rfl⟩
  | reservedCF low r =>
    have hlow : low = 0#2 ∨ low = 1#2 ∨ low = 2#2 ∨ low = 3#2 := by clear hi; decide +revert
    exact ⟨0b11#2 ++ low, r, [], rfl, hnil _ r, by rcases hlow with rfl | rfl | rfl | rfl <;> exact fun _ => rfl⟩
  | _ => cases hi

/-- A well-formed request is read back from its bytes. -/
theorem decodeRequest_encodeWith {p : Params} {i : Instr} (hi : i.format = .req) (hw : i.wellFormed p = true)
    (rest : List Byte) : decodeRequest p (encodeWith p i ++ rest) = .ok (i, rest) := by
  obtain ⟨op, f, payload, hf, henc, hbody⟩ := encodeWith_request hi
  rw [henc, List.append_assoc, decodeRequest_encodeHead op ((wellFormed_iff_fits hf).mp hw), hbody]

/-- A request that is read has the bytes it was read from, the port's bits of no field at zero. -/
theorem encodeWith_of_decodeRequest {p : Params} {bs rest : List Byte} {i : Instr}
    (h : decodeRequest p bs = .ok (i, rest)) : encodeWith p i ++ rest = portBits p .req bs := by
  unfold decodeRequest at h
  split at h
  · cases h
  · rw [encodeWith_of_decodeBody h, encodeHead, headerWord_of_fields, portBits]

/-! ### Control bytes and DATA bytes -/

theorem decodeControl_eq_ok {bs rest : List Byte} {i : Instr} :
    decodeControl bs = .ok (i, rest) ↔
      bs = 0x00#8 :: rest ∧ i = .ctrlCommand ∨ bs = 0x40#8 :: rest ∧ i = .ctrlData := by
  constructor
  · intro h
    unfold decodeControl at h
    split at h
    · cases h
    · split at h
      · subst_vars; cases h; exact .inl ⟨rfl, rfl⟩
      · split at h
        · subst_vars; cases h; exact .inr ⟨rfl, rfl⟩
        · cases h
  · rintro (⟨rfl, rfl⟩ | ⟨rfl, rfl⟩) <;> rfl

theorem decodeData_eq_ok {bs rest : List Byte} {i : Instr} :
    decodeData bs = .ok (i, rest) ↔ ∃ b, bs = b :: rest ∧ i = .dataByte b := by
  constructor
  · intro h
    cases bs with
    | nil => cases h
    | cons b bs => cases h; exact ⟨b, rfl, rfl⟩
  · rintro ⟨b, rfl, rfl⟩
    rfl

/-! ### Commands (R90) -/

/-- A fixed command that is read is a row of the table, and the bytes begin with that row's. -/
theorem decodeFixed_eq_some {rows : List (List Byte × Instr)} {bs rest : List Byte} {i : Instr}
    (h : decodeFixed rows bs = some (i, rest)) : ∃ pattern, (pattern, i) ∈ rows ∧ pattern ++ rest = bs := by
  induction rows with
  | nil => cases h
  | cons row more ih =>
    obtain ⟨pattern, j⟩ := row
    rw [decodeFixed] at h
    split at h
    · rename_i hp
      cases h
      exact ⟨pattern, List.mem_cons_self, List.prefix_iff_eq_append.mp (List.isPrefixOf_iff_prefix.mp hp)⟩
    · obtain ⟨pattern', hmem, happ⟩ := ih h
      exact ⟨pattern', List.mem_cons_of_mem _ hmem, happ⟩

/-- The bytes of each row of `fixedCommands` are its instruction's encoding. -/
theorem encodeWith_of_mem_fixedCommands {p : Params} {pattern : List Byte} {i : Instr}
    (h : (pattern, i) ∈ fixedCommands) : i.format = .cmd ∧ encodeWith p i = pattern := by
  have hall : ∀ row ∈ fixedCommands, row.2.format = .cmd ∧ encodeWith p row.2 = row.1 := by
    simp [fixedCommands, Instr.format, encodeWith]
  exact hall _ h

/-- A command that is read has the bytes it was read from. -/
theorem encodeWith_of_decodeCommand {p : Params} {bs rest : List Byte} {i : Instr}
    (h : decodeCommand p bs = .ok (i, rest)) : i.format = .cmd ∧ encodeWith p i ++ rest = bs := by
  have hpage : ∀ b : Byte, b &&& 0xF8#8 = pageStartBase → 0b10110#5 ++ b.extractLsb' 0 3 = b := fun b hb =>
    (pageOfByte_eq_some.mp (if_pos hb)).symm
  cases bs with
  | nil => cases h
  | cons b bs =>
    simp only [decodeCommand] at h
    by_cases hp : b &&& 0xF8#8 = pageStartBase
    · rw [if_pos hp] at h; cases h
      exact ⟨rfl, congrArg (· :: rest) (hpage b hp)⟩
    rw [if_neg hp] at h
    by_cases hl : b &&& 0xF0#8 = colLowBase
    · rw [if_pos hl] at h; cases h
      exact ⟨rfl, congrArg (· :: rest) ((colLow_iff b).mp hl).symm⟩
    rw [if_neg hl] at h
    by_cases hh : b &&& 0xF8#8 = colHighBase
    · rw [if_pos hh] at h; cases h
      exact ⟨rfl, congrArg (· :: rest) ((colHigh_iff b).mp hh).symm⟩
    rw [if_neg hh] at h
    by_cases hr : b = entireOnResume
    · rw [if_pos hr] at h; cases h
      exact ⟨rfl, congrArg (· :: rest) hr.symm⟩
    rw [if_neg hr] at h
    by_cases hi : b = p.entireOnIgnoreRam
    · rw [if_pos hi] at h; cases h
      exact ⟨rfl, congrArg (· :: rest) hi.symm⟩
    rw [if_neg hi] at h
    split at h
    · rename_i hm
      cases h
      rw [Bool.and_eq_true] at hm
      exact ⟨rfl, List.prefix_iff_eq_append.mp (List.isPrefixOf_iff_prefix.mp hm.2)⟩
    · split at h
      · rename_i out hout
        cases h
        obtain ⟨pattern, hmem, happ⟩ := decodeFixed_eq_some hout
        obtain ⟨hf, henc⟩ := encodeWith_of_mem_fixedCommands (p := p) hmem
        exact ⟨hf, henc ▸ happ⟩
      · cases h

theorem decodeCommand_pageStart (p : Params) (page : BitVec 3) (rest : List Byte) :
    decodeCommand p ((0b10110#5 ++ page) :: rest) = .ok (.cmdPageStart page, rest) := by
  have h : ∀ page : BitVec 3, (0b10110#5 ++ page) &&& 0xF8#8 = pageStartBase ∧
      (0b10110#5 ++ page).extractLsb' 0 3 = page := by decide
  obtain ⟨hbase, hpage⟩ := h page
  simp only [decodeCommand, hbase, hpage, if_true]

theorem decodeCommand_colLow (p : Params) (low : BitVec 4) (rest : List Byte) :
    decodeCommand p ((0b0000#4 ++ low) :: rest) = .ok (.cmdColLow low, rest) := by
  have h : ∀ low : BitVec 4, ¬ (0b0000#4 ++ low) &&& 0xF8#8 = pageStartBase ∧
      (0b0000#4 ++ low) &&& 0xF0#8 = colLowBase := by decide
  obtain ⟨hpage, hbase⟩ := h low
  simp only [decodeCommand, hpage, hbase, low_of_append, if_true, if_false]

theorem decodeCommand_colHigh (p : Params) (high : BitVec 3) (rest : List Byte) :
    decodeCommand p ((0b00010#5 ++ high) :: rest) = .ok (.cmdColHigh high, rest) := by
  have h : ∀ high : BitVec 3, ¬ (0b00010#5 ++ high) &&& 0xF8#8 = pageStartBase ∧
      ¬ (0b00010#5 ++ high) &&& 0xF0#8 = colLowBase ∧ (0b00010#5 ++ high) &&& 0xF8#8 = colHighBase := by decide
  obtain ⟨hpage, hlow, hbase⟩ := h high
  simp only [decodeCommand, hpage, hlow]
  simp only [hbase, high_of_append, if_true, if_false]

/-- Of the parameters the command decoder reads the two command bytes only. -/
theorem decodeCommand_congr {p q : Params} (hseq : p.addrModePageSeq.bytes = q.addrModePageSeq.bytes)
    (hram : p.entireOnIgnoreRam = q.entireOnIgnoreRam) : decodeCommand p = decodeCommand q := by
  funext bs
  simp only [decodeCommand, hseq, hram]

/-- With the table's own bytes of the command parameters, a command is read back from its bytes. -/
theorem decodeCommand_encodeWith {p : Params} {i : Instr} (hi : i.format = .cmd)
    (hseq : p.addrModePageSeq.bytes = [0x20#8, 0x02#8]) (hram : p.entireOnIgnoreRam = 0xA5#8)
    (rest : List Byte) : decodeCommand p (encodeWith p i ++ rest) = .ok (i, rest) := by
  rw [decodeCommand_congr (q := defaultParams) hseq hram]
  cases i with
  | cmdPageStart page => exact decodeCommand_pageStart _ page rest
  | cmdColLow low => exact decodeCommand_colLow _ low rest
  | cmdColHigh high => exact decodeCommand_colHigh _ high rest
  | cmdEntireOnIgnoreRam => rw [encodeWith, hram]; rfl
  | cmdAddrModePage => rw [encodeWith, hseq]; rfl
  | cmdEntireOnResume | cmdDisplayOff | cmdMuxRatio | cmdDisplayOffset | cmdStartLine0 | cmdSegmentRemap0
  | cmdComScanNormal | cmdComPins | cmdContrast | cmdNormalDisplay | cmdClockDiv | cmdChargePump
  | cmdDisplayOnPanel => rfl
  | _ => cases hi

/-! ### Every format -/

/-- Only a request has fields that must fit their widths. -/
theorem wellFormed_of_format_ne_req {p : Params} {i : Instr} (h : i.format ≠ .req) : i.wellFormed p = true := by
  cases i <;> simp [Instr.format, Instr.wellFormed, Instr.requestFields] at h ⊢

/-- Settles O13: a request by its head and payload, the bus instructions by their rows. -/
theorem decodeUndoesEncode : Obligations.DecodeUndoesEncode := by
  intro p i rest hw hcmd
  cases hf : i.format with
  | req => exact decodeRequest_encodeWith hf hw rest
  | ctrl =>
    cases i with
    | ctrlCommand | ctrlData => rfl
    | _ => cases hf
  | data =>
    cases i with
    | dataByte d => rfl
    | _ => cases hf
  | cmd => exact decodeCommand_encodeWith hf (hcmd hf).1 (hcmd hf).2 rest

/-- Settles O14: in each format what is read has the bytes it was read from; commands need no premise on the
parameters here. -/
theorem encodeUndoesDecode : Obligations.EncodeUndoesDecode := by
  intro p f bs i rest _ h
  cases f with
  | req =>
    obtain ⟨hf, hw⟩ := decodeRequest_wellFormed h
    exact ⟨hf, hw, encodeWith_of_decodeRequest h⟩
  | ctrl =>
    obtain ⟨rfl, rfl⟩ | ⟨rfl, rfl⟩ := decodeControl_eq_ok.mp h <;> exact ⟨rfl, rfl, rfl⟩
  | data =>
    obtain ⟨b, rfl, rfl⟩ := decodeData_eq_ok.mp h
    exact ⟨rfl, rfl, rfl⟩
  | cmd =>
    obtain ⟨hf, henc⟩ := encodeWith_of_decodeCommand h
    exact ⟨hf, wellFormed_of_format_ne_req (by simp [hf]), henc⟩

end Sys2Proof
end


section
/-! PROOFS. What the bus leaves alone, and that the shadow state is never read (10_state R20, R30). -/

namespace Sys2Proof.Machine

/-! ### What an instruction of the bus leaves alone (R10, R20) -/

/-- The two states differ at most in the controller: the shadow state, the frame it is taking, whose bytes
are all left or all taken, and its place in it. -/
def OnlyControllerChanged (s t : State) : Prop :=
  ∃ (shadow : Shadow) (bus : List Byte) (rx : Rx), (bus = s.bus ∨ bus = []) ∧
    t = { s with shadow := shadow, bus := bus, rx := rx }

theorem onlyControllerChanged_busEffect (f : Shadow → Shadow) (s : State) :
    OnlyControllerChanged s (busEffect f s) := ⟨_, _, _, .inl rfl, rfl⟩

theorem onlyControllerChanged_busDone (s : State) : OnlyControllerChanged s (busDone s) := ⟨_, _, _, .inl rfl, rfl⟩

theorem onlyControllerChanged_busBegin (m : RxMode) (s : State) : OnlyControllerChanged s (busBegin m s) :=
  ⟨_, _, _, .inl rfl, rfl⟩

/-- After the COMMAND control byte the payload is left to be decoded, or, in class K6, taken as a whole
(log entry 16). -/
theorem onlyControllerChanged_execCtrlCommand {s t : State} (h : execCtrlCommand s = .next t) :
    OnlyControllerChanged s t := by
  unfold execCtrlCommand at h
  split at h
  · cases h; exact ⟨_, _, _, .inr rfl, rfl⟩
  · cases h; exact onlyControllerChanged_busBegin .command s

/-- A high nibble sets the column with the low one before it, else it leaves it half-set. -/
theorem onlyControllerChanged_execCmdColHigh {high : BitVec 3} {s t : State} (h : execCmdColHigh high s = .next t) :
    OnlyControllerChanged s t := by
  unfold execCmdColHigh at h
  split at h <;> cases h <;> exact onlyControllerChanged_busEffect _ s

/-- Settles O60: every bus instruction ends in an update of the controller alone. -/
theorem busInstructionsTouchOnlyTheController : Obligations.BusInstructionsTouchOnlyTheController := by
  intro i s t hi h
  change OnlyControllerChanged s t
  cases i with
  | ctrlCommand => exact onlyControllerChanged_execCtrlCommand h
  | ctrlData => cases h; exact onlyControllerChanged_busBegin .data s
  | cmdColLow low => cases h; exact ⟨_, _, _, .inl rfl, rfl⟩
  | cmdColHigh high => exact onlyControllerChanged_execCmdColHigh h
  | dataByte d => cases h; exact onlyControllerChanged_busEffect _ s
  | cmdPageStart page => cases h; exact onlyControllerChanged_busEffect _ s
  | cmdAddrModePage => cases h; exact onlyControllerChanged_busEffect _ s
  | cmdEntireOnResume | cmdEntireOnIgnoreRam | cmdDisplayOff | cmdMuxRatio | cmdDisplayOffset | cmdStartLine0
  | cmdSegmentRemap0 | cmdComScanNormal | cmdComPins | cmdContrast | cmdNormalDisplay | cmdClockDiv
  | cmdChargePump | cmdDisplayOnPanel => cases h; exact onlyControllerChanged_busDone s
  | _ => cases hi

/-! ### Outcomes that agree but for some part of the state -/

/-- Two outcomes stop for the same reason, or answer states that are related. -/
def OutRel (R : State → State → Prop) : Out → Out → Prop
  | .next s, .next t => R s t
  | .fault r, .fault r' => r = r'
  | .refused r, .refused r' => r = r'
  | _, _ => False

/-- Where the first outcome is a next state, the second is a related one. -/
theorem OutRel.next {R : State → State → Prop} {o : Out} {s : State} (h : OutRel R (.next s) o) :
    ∃ t, o = .next t ∧ R s t := by
  cases o with
  | next t => exact ⟨t, rfl, h⟩
  | fault r => exact h.elim
  | refused r => exact h.elim

/-! ### The step in each place, with nothing on the bus -/

theorem step_of_construct {s : State} {sel : AddrSel} (h : s.resetIn = some sel) :
    step s = constructStep sel s := by
  simp only [step, fetch, h]

theorem step_of_busy {s : State} (hr : s.resetIn = none) (hb : s.bus = []) (hp : s.phase = .busy) :
    step s = .next (resume s) := by
  simp [step, fetch, hr, hb, hp]

theorem step_of_no_request {s : State} (hr : s.resetIn = none) (hb : s.bus = []) (hp : s.phase = .idle)
    {e : DecodeError} (hd : decodeRequest s.params s.hostIn = .error e) : step s = .next s := by
  simp [step, fetch, hr, hb, hp, fetchRequest, decodeWith, hd]

theorem step_of_request {s : State} (hr : s.resetIn = none) (hb : s.bus = []) (hp : s.phase = .idle)
    {i : Instr} {rest : List Byte} (hd : decodeRequest s.params s.hostIn = .ok (i, rest)) :
    step s = exec i { s with hostIn := rest } := by
  simp only [step, fetch, hr, hb, hp, fetchRequest, decodeWith, hd, List.isEmpty_nil, if_true]

/-! ### The shadow state is not read (R30) -/

/-- The two states differ at most in the shadow state. -/
def SameButShadow (s t : State) : Prop := ∃ sh, t = { s with shadow := sh }

section

variable {s t : State}

theorem SameButShadow.params (h : SameButShadow s t) : t.params = s.params := by
  obtain ⟨sh, rfl⟩ := h; rfl

theorem SameButShadow.phase (h : SameButShadow s t) : t.phase = s.phase := by
  obtain ⟨sh, rfl⟩ := h; rfl

theorem SameButShadow.bus (h : SameButShadow s t) : t.bus = s.bus := by
  obtain ⟨sh, rfl⟩ := h; rfl

theorem SameButShadow.hostIn (h : SameButShadow s t) : t.hostIn = s.hostIn := by
  obtain ⟨sh, rfl⟩ := h; rfl

theorem SameButShadow.resetIn (h : SameButShadow s t) : t.resetIn = s.resetIn := by
  obtain ⟨sh, rfl⟩ := h; rfl

theorem SameButShadow.nextAnswer (h : SameButShadow s t) : nextAnswer t = nextAnswer s := by
  obtain ⟨sh, rfl⟩ := h; rfl

theorem SameButShadow.latchedCalls (h : SameButShadow s t) : latchedCalls t = latchedCalls s := by
  obtain ⟨sh, rfl⟩ := h; rfl

theorem SameButShadow.setHostIn (h : SameButShadow s t) (bs : List Byte) :
    SameButShadow { s with hostIn := bs } { t with hostIn := bs } := by
  obtain ⟨sh, rfl⟩ := h; exact ⟨sh, rfl⟩

theorem sameButShadow_buildFrame (frame : List Byte) (h : SameButShadow s t) :
    SameButShadow (buildFrame frame s) (buildFrame frame t) := by
  obtain ⟨sh, rfl⟩ := h; exact ⟨sh, rfl⟩

theorem sameButShadow_accept (op : BitVec 4) (f : Fields) (h : SameButShadow s t) :
    SameButShadow (accept op f s) (accept op f t) := by
  obtain ⟨sh, rfl⟩ := h; exact ⟨sh, rfl⟩

theorem sameButShadow_respond (st : Status) (h : SameButShadow s t) :
    SameButShadow (respond st s) (respond st t) := by
  obtain ⟨sh, rfl⟩ := h; exact ⟨sh, rfl⟩

theorem sameButShadow_raise (x : Condition) (h : SameButShadow s t) : SameButShadow (raise x s) (raise x t) := by
  obtain ⟨sh, rfl⟩ := h
  cases x <;> exact ⟨sh, rfl⟩

/-- The transport's turn reads no shadow state where what follows on `Ok` reads none: an answered write
changes the shadow state and is recorded without it. -/
theorem sameButShadow_settle {g : State → State} (hg : ∀ {s t}, SameButShadow s t → SameButShadow (g s) (g t))
    (h : SameButShadow s t) : SameButShadow (settle g s) (settle g t) := by
  have hans := h.nextAnswer
  obtain ⟨sh, rfl⟩ := h
  rcases settle_cases g s with ⟨hn, hs⟩ | ⟨hn, hs⟩ | ⟨e, hn, hs⟩
  · rw [hs, settle_none (hans.trans hn)]
    exact ⟨sh, rfl⟩
  · rw [hs, settle_ok (hans.trans hn)]
    exact hg ⟨_, rfl⟩
  · rw [hs, settle_err (hans.trans hn)]
    exact sameButShadow_raise _ ⟨_, rfl⟩

theorem sameButShadow_runCalls (cs : List Call) (h : SameButShadow s t) :
    SameButShadow (runCalls cs s) (runCalls cs t) := by
  induction cs generalizing s t with
  | nil => exact sameButShadow_respond .ok h
  | cons c cs ih =>
    cases hf : callFrame s.params c with
    | error x =>
      rw [runCalls_cons_error hf, runCalls_cons_error (h.params ▸ hf)]
      exact sameButShadow_raise x h
    | ok frame =>
      rw [runCalls_cons_ok hf, runCalls_cons_ok (h.params ▸ hf)]
      exact sameButShadow_settle ih (sameButShadow_buildFrame frame h)

theorem sameButShadow_resume (h : SameButShadow s t) : SameButShadow (resume s) (resume t) := by
  have hseq : t.seq = s.seq := by obtain ⟨sh, rfl⟩ := h; rfl
  unfold resume
  rw [h.latchedCalls, hseq]
  exact sameButShadow_settle (sameButShadow_runCalls _) h

theorem sameButShadow_reject (x : Condition) (h : SameButShadow s t) :
    OutRel SameButShadow (reject x s) (reject x t) := by
  obtain ⟨sh, rfl⟩ := h
  unfold reject
  split
  · rfl
  · exact sameButShadow_raise x ⟨sh, rfl⟩

theorem sameButShadow_request (op : BitVec 4) (f : Fields) (c : Call) (cs : List Call) (h : SameButShadow s t) :
    OutRel SameButShadow (request op f (c :: cs) s) (request op f (c :: cs) t) := by
  cases hp : s.phase with
  | busy =>
    rw [request_busy hp, request_busy (h.phase.trans hp)]
    rfl
  | idle =>
    have hp' := h.phase.trans hp
    cases hf : callFrame s.params c with
    | error x =>
      rw [request_error hp hf, request_error hp' (h.params ▸ hf)]
      exact sameButShadow_reject x h
    | ok frame =>
      rw [request_ok hp hf, request_ok hp' (h.params ▸ hf)]
      exact sameButShadow_settle (sameButShadow_runCalls cs)
        (sameButShadow_buildFrame frame (sameButShadow_accept op f h))

theorem sameButShadow_illegalRequest (h : SameButShadow s t) :
    OutRel SameButShadow (illegalRequest s) (illegalRequest t) := by
  unfold illegalRequest
  rw [h.phase]
  cases s.phase with
  | busy => rfl
  | idle => exact sameButShadow_reject .illegalOp h

/-- No request reads the shadow state. -/
theorem sameButShadow_exec_request {i : Instr} (hi : isRequest i = true) (h : SameButShadow s t) :
    OutRel SameButShadow (exec i s) (exec i t) := by
  rcases exec_request_form hi s with hill | ⟨op, f, c, cs, -, hreq, -⟩
  · rw [hill, hill]
    exact sameButShadow_illegalRequest h
  · rw [hreq s rfl, hreq t h.params]
    exact sameButShadow_request op f c cs h

theorem sameButShadow_constructStep (sel : AddrSel) (h : SameButShadow s t) :
    OutRel SameButShadow (constructStep sel s) (constructStep sel t) := by
  unfold constructStep
  rw [h.phase]
  cases s.phase with
  | busy => rfl
  | idle =>
    obtain ⟨sh, rfl⟩ := h
    exact ⟨unknownShadow, rfl⟩

/-- With nothing on the bus no step reads the shadow state. -/
theorem sameButShadow_step (hb : s.bus = []) (h : SameButShadow s t) :
    OutRel SameButShadow (step s) (step t) := by
  have hb' := h.bus.trans hb
  cases hr : s.resetIn with
  | some sel =>
    rw [step_of_construct hr, step_of_construct (h.resetIn.trans hr)]
    exact sameButShadow_constructStep sel h
  | none =>
    have hr' := h.resetIn.trans hr
    cases hp : s.phase with
    | busy =>
      rw [step_of_busy hr hb hp, step_of_busy hr' hb' (h.phase.trans hp)]
      exact sameButShadow_resume h
    | idle =>
      have hp' := h.phase.trans hp
      have hdec : decodeRequest t.params t.hostIn = decodeRequest s.params s.hostIn := by rw [h.params, h.hostIn]
      cases hd : decodeRequest s.params s.hostIn with
      | error e =>
        rw [step_of_no_request hr hb hp hd, step_of_no_request hr' hb' hp' (hdec.trans hd)]
        exact h
      | ok out =>
        obtain ⟨i, rest⟩ := out
        rw [step_of_request hr hb hp hd, step_of_request hr' hb' hp' (hdec.trans hd)]
        have hi : isRequest i = true := decide_eq_true (decodeRequest_wellFormed hd).1
        exact sameButShadow_exec_request hi (h.setHostIn rest)

end

/-- Settles O38: the two steps agree but for the shadow state. -/
theorem shadowStateIsNeverRead : Obligations.ShadowStateIsNeverRead := by
  intro s t sh hb h
  have hrel : OutRel SameButShadow (step s) (step { s with shadow := sh }) := sameButShadow_step hb ⟨sh, rfl⟩
  rw [h] at hrel
  obtain ⟨t', ht', sh', rfl⟩ := hrel.next
  exact ⟨_, ht', rfl⟩

/-! ### Reset -/

/-- Settles O1: each clause is the field's value in `State.resetWith`, and the default reset state has no cell. -/
theorem resetIsIdleSilentAndUnknown : Obligations.ResetIsIdleSilentAndUnknown :=
  ⟨fun _ _ => ⟨rfl, rfl, rfl, rfl, rfl⟩, rfl, rfl, rfl, memRead_nil⟩

end Sys2Proof.Machine
end


section
/-! PROOFS. What the calls of a request keep, and where they stop (10_state R22 to R26, 40_framing R120,
42_composed R164 to R166). -/

namespace Sys2Proof.Machine

/-! ### Raising a condition, and a write answered `Ok` -/

@[simp] theorem raise_phase (x : Condition) (s : State) : (raise x s).phase = .idle := by cases x <;> rfl

@[simp] theorem raise_seq (x : Condition) (s : State) : (raise x s).seq = s.seq := by cases x <;> rfl

@[simp] theorem raise_shadow (x : Condition) (s : State) : (raise x s).shadow = s.shadow := by cases x <;> rfl

/-- A request whose checks fail answers a next state only by its response, with `SEQ` at 0. -/
theorem reject_eq_next {x : Condition} {s t : State} (h : reject x s = .next t) :
    t = raise x { s with seq := 0#5 } := by
  unfold reject at h
  split at h <;> cases h
  rfl

theorem illegalRequest_eq_next {s t : State} (h : illegalRequest s = .next t) :
    t = raise .illegalOp { s with seq := 0#5 } := by
  unfold illegalRequest at h
  split at h
  · cases h
  · exact reject_eq_next h

/-- The state after a write answered `Ok`, before the next call (R26, R120). -/
def afterOk (s : State) : State := { recordWrite .ok (useAnswer s) with seq := s.seq + 1#5 }

theorem settle_ok_afterOk {g : State → State} {s : State} (h : nextAnswer s = some .ok) :
    settle g s = g (afterOk s) := settle_ok h

/-! ### What every update of a run of calls keeps, the run keeps -/

/-- Every update that a run of calls is made of keeps the property. -/
structure KeptByCalls (Q : State → Prop) : Prop where
  build : ∀ {frame : List Byte} {s : State}, legalFrame frame → Q s → Q (buildFrame frame s)
  turn : ∀ {s : State}, Q s → Q (useAnswer s)
  record : ∀ (a : Answer) {s : State}, Q s → Q (recordWrite a s)
  count : ∀ (n : BitVec 5) {s : State}, Q s → Q { s with seq := n }
  answer : ∀ (st : Status) {s : State}, Q s → Q (respond st s)
  error : ∀ (e : TErr) {s : State}, Q s → Q { s with terr := e }

section

variable {Q : State → Prop} {s : State}

theorem KeptByCalls.of_raise (hQ : KeptByCalls Q) (x : Condition) (h : Q s) : Q (raise x s) := by
  cases x with
  | transport e => exact hQ.answer _ (hQ.error e h)
  | bufferTooSmall | rangeViolation | illegalOp => exact hQ.answer _ h

theorem KeptByCalls.of_settle (hQ : KeptByCalls Q) {g : State → State} (hg : ∀ {s}, Q s → Q (g s)) (h : Q s) :
    Q (settle g s) := by
  rcases settle_cases g s with ⟨-, hs⟩ | ⟨-, hs⟩ | ⟨e, -, hs⟩
  · rw [hs]; exact hQ.turn h
  · rw [hs]; exact hg (hQ.count _ (hQ.record _ (hQ.turn h)))
  · rw [hs]; exact hQ.of_raise _ (hQ.record _ (hQ.turn h))

theorem KeptByCalls.of_runCalls (hQ : KeptByCalls Q) (cs : List Call) (h : Q s) : Q (runCalls cs s) := by
  induction cs generalizing s with
  | nil => exact hQ.answer .ok h
  | cons c cs ih =>
    cases hf : callFrame s.params c with
    | error x => rw [runCalls_cons_error hf]; exact hQ.of_raise x h
    | ok frame => rw [runCalls_cons_ok hf]; exact hQ.of_settle ih (hQ.build (callFrame_legal hf) h)

theorem KeptByCalls.of_resume (hQ : KeptByCalls Q) (h : Q s) : Q (resume s) :=
  hQ.of_settle (hQ.of_runCalls _) h

end

/-! ### The frame of a run of calls -/

/-- What no call changes: the parameters, the address, the latches and the inputs that are not the transport's;
`LOG` is only appended to, with records to the selected address (R35, R43, R52). -/
structure CallsKeep (s t : State) : Prop where
  params : t.params = s.params
  addrSel : t.addrSel = s.addrSel
  op : t.op = s.op
  arg0 : t.arg0 = s.arg0
  arg1 : t.arg1 = s.arg1
  plen : t.plen = s.plen
  hostIn : t.hostIn = s.hostIn
  bus : t.bus = s.bus
  rx : t.rx = s.rx
  resetIn : t.resetIn = s.resetIn
  log : ∃ more, t.log = s.log ++ more ∧ ∀ r ∈ more, r.addr = busAddr s.addrSel

theorem CallsKeep.refl (s : State) : CallsKeep s s :=
  ⟨rfl, rfl, rfl, rfl, rfl, rfl, rfl, rfl, rfl, rfl, [], (List.append_nil _).symm, fun _ h => nomatch h⟩

theorem callsKeep_recordWrite (a : Answer) {s t : State} (h : CallsKeep s t) : CallsKeep s (recordWrite a t) := by
  obtain ⟨more, hlog, haddr⟩ := h.log
  refine { h with log := ⟨more ++ [⟨busAddr t.addrSel, builtFrame t, a⟩], ?_, ?_⟩ }
  · rw [recordWrite_log, hlog, List.append_assoc]
  · intro r hr
    rcases List.mem_append.mp hr with hr | hr
    · exact haddr r hr
    · rw [List.mem_singleton.mp hr, h.addrSel]

theorem keptByCalls_callsKeep (s : State) : KeptByCalls (CallsKeep s) where
  build _ h := { h with }
  turn h := { h with }
  record a _ h := callsKeep_recordWrite a h
  count _ _ h := { h with }
  answer _ _ h := { h with }
  error _ _ h := { h with }

theorem callsKeep_resume (s : State) : CallsKeep s (resume s) :=
  (keptByCalls_callsKeep s).of_resume (.refl s)

/-- A request that is rejected changes no more. -/
theorem callsKeep_rejected (x : Condition) (s : State) : CallsKeep s (raise x { s with seq := 0#5 }) :=
  (keptByCalls_callsKeep s).of_raise x ((keptByCalls_callsKeep s).count _ (.refl s))

/-! ### Where a run of calls stops -/

/-- A run that begins at the pending call `c` stops `j` calls later, as `SEQ` says, and, where it is `BUSY`, with
the frame of that call in `TXBUF` (R22, R26). -/
theorem settle_stops {c : Call} {s : State} (cs : List Call) (hf : callFrame s.params c = .ok (builtFrame s)) :
    ∃ j ≤ cs.length + 1, (settle (runCalls cs) s).seq = s.seq + BitVec.ofNat 5 j ∧
      ((settle (runCalls cs) s).phase = .busy →
        ∃ d, (c :: cs)[j]? = some d ∧ callFrame s.params d = .ok (builtFrame (settle (runCalls cs) s))) := by
  induction cs generalizing c s with
  | nil =>
    rcases settle_cases (runCalls []) s with ⟨-, hs⟩ | ⟨-, hs⟩ | ⟨e, -, hs⟩
    · rw [hs]; exact ⟨0, Nat.zero_le _, by simp, fun _ => ⟨c, rfl, hf⟩⟩
    · rw [hs]; exact ⟨1, Nat.le_refl _, rfl, nofun⟩
    · rw [hs]; exact ⟨0, Nat.zero_le _, by simp, nofun⟩
  | cons c' cs ih =>
    rcases settle_cases (runCalls (c' :: cs)) s with ⟨-, hs⟩ | ⟨hn, -⟩ | ⟨e, -, hs⟩
    · rw [hs]; exact ⟨0, Nat.zero_le _, by simp, fun _ => ⟨c, rfl, hf⟩⟩
    · rw [settle_ok_afterOk hn]
      cases hf' : callFrame s.params c' with
      | error x =>
        rw [runCalls_cons_error (s := afterOk s) hf']
        exact ⟨1, by simp, raise_seq x _, by simp⟩
      | ok frame =>
        rw [runCalls_cons_ok (s := afterOk s) hf']
        have hb := builtFrame_buildFrame frame (afterOk s) (callFrame_length hf')
        obtain ⟨j, hj, hseq, hpend⟩ := ih (s := buildFrame frame (afterOk s)) (hf'.trans (by rw [hb]))
        refine ⟨j + 1, by simpa using hj, ?_, hpend⟩
        rw [hseq, BitVec.ofNat_add, BitVec.add_comm (BitVec.ofNat 5 j), ← BitVec.add_assoc]
        rfl
    · rw [hs]; exact ⟨0, Nat.zero_le _, by simp, nofun⟩

/-! ### The calls of the latched request -/

/-- The calls of a request are read from the parameters, the latches and the built frame (R24). -/
theorem latchedCalls_congr {s t : State} (h : CallsKeep s t) (hb : builtFrame t = builtFrame s) :
    latchedCalls t = latchedCalls s := by
  simp only [latchedCalls, h.params, h.op, h.arg0, h.arg1, h.plen, hb]

/-- No request has more than the 26 calls of `clear()` (R26, R165). -/
theorem latchedCalls_length_le (s : State) : (latchedCalls s).length ≤ 26 := by
  by_cases h : 1 < (latchedCalls s).length
  · rw [(latchedCalls_eq_clear h rfl).1]; decide
  · omega

/-- While `BUSY`, the run goes on at call number `SEQ + 1` with the same calls as before, and stops at a call of
its own or, `IDLE`, behind the last (R26). -/
theorem resume_stops {s : State} (hb : busyOk s) (hp : s.phase = .busy) :
    seqOk (resume s) ∧ busyOk (resume s) ∧
      ((resume s).phase = .busy → latchedCalls (resume s) = latchedCalls s) := by
  obtain ⟨c, hc, hf⟩ := hb hp
  have hlen := latchedCalls_length_le s
  have hlt : s.seq.toNat < (latchedCalls s).length := (List.getElem?_eq_some_iff.mp hc).1
  obtain ⟨j, hj, hseq, hpend⟩ := settle_stops ((latchedCalls s).drop (s.seq.toNat + 1)) hf
  change (resume s).seq = _ at hseq
  change (resume s).phase = _ → _ at hpend
  rw [List.length_drop] at hj
  have hnat : (resume s).seq.toNat = s.seq.toNat + j := by
    rw [hseq, BitVec.toNat_add, BitVec.toNat_ofNat]
    omega
  have hcalls : (resume s).phase = .busy → latchedCalls (resume s) = latchedCalls s := by
    intro hbusy
    obtain ⟨d, hd, hfd⟩ := hpend hbusy
    cases j with
    | zero =>
      cases hd
      exact latchedCalls_congr (callsKeep_resume s) (Except.ok.inj (hfd.symm.trans hf))
    | succ j =>
      have hmany : 1 < (latchedCalls s).length := by
        have := (List.getElem?_eq_some_iff.mp hd).1
        rw [List.length_cons, List.length_drop] at this
        omega
      obtain ⟨h1, h2⟩ := latchedCalls_eq_clear hmany (callsKeep_resume s).op
      rw [h1, h2]
  refine ⟨by unfold seqOk; omega, fun hbusy => ?_, hcalls⟩
  obtain ⟨d, hd, hfd⟩ := hpend hbusy
  refine ⟨d, ?_, (callsKeep_resume s).params ▸ hfd⟩
  have hdrop : c :: (latchedCalls s).drop (s.seq.toNat + 1) = (latchedCalls s).drop s.seq.toNat := by
    rw [List.drop_eq_getElem_cons hlt, (List.getElem?_eq_some_iff.mp hc).2]
  rw [hcalls hbusy, hnat, ← List.getElem?_drop, ← hdrop, hd]

/-! ### A request is its acceptance and then a run of its calls -/

/-- A request that answers a next state is rejected by its checks, or it is latched, its first frame is built, and
the block runs on as one that is `BUSY` with that frame (R25, R80, R120). -/
theorem exec_request_next {i : Instr} {s t : State} (hi : isRequest i = true) (h : exec i s = .next t) :
    (∃ x, t = raise x { s with seq := 0#5 }) ∨
    ∃ op f frame, i.requestFields = some { arg0 := f.arg0, arg1 := f.arg1, plen := f.plen } ∧
      busyOk (buildFrame frame (accept op f s)) ∧
      ∀ u : State, u.params = s.params → u.phase = s.phase →
        exec i u = .next (resume (buildFrame frame (accept op f u))) := by
  rcases exec_request_form hi s with hill | ⟨op, f, c, cs, hfields, hreq, hlatched⟩
  · exact .inl ⟨.illegalOp, illegalRequest_eq_next (hill s ▸ h)⟩
  · rw [hreq s rfl] at h
    obtain ⟨hp, ⟨x, -, ht⟩ | ⟨frame, hf, -⟩⟩ := request_cases h
    · exact .inl ⟨x, ht⟩
    · have hbuilt : ∀ u, builtFrame (buildFrame frame (accept op f u)) = frame := fun u =>
        builtFrame_buildFrame frame _ (callFrame_length hf)
      have hcalls : ∀ u : State, u.params = s.params →
          latchedCalls (buildFrame frame (accept op f u)) = c :: cs := fun u hu =>
        hlatched _ hu rfl rfl rfl fun _ => by rw [hbuilt, hf]
      refine .inr ⟨op, f, frame, hfields, fun _ => ⟨c, ?_, ?_⟩, fun u hu hpu => ?_⟩
      · rw [hcalls s rfl]; rfl
      · rw [hbuilt]; exact hf
      · rw [hreq u hu, request_ok (hpu.trans hp) (hu ▸ hf), resume, hcalls u hu]
        rfl

end Sys2Proof.Machine
end


section
/-! PROOFS. The step: what it leaves alone, and that it keeps the invariant (10_state R21 to R26, R35, 20_memory R52). -/

namespace Sys2Proof.Machine

/-! ### The step with bytes on the bus -/

theorem step_of_bus {s : State} (hr : s.resetIn = none) (hb : s.bus ≠ []) {i : Instr} {rest : List Byte}
    (hd : decodeWith s.params (busFormat s.rx.mode) s.bus = .ok (i, rest)) : step s = exec i { s with bus := rest } := by
  simp [step, fetch, hr, hb, fetchBus, hd]

theorem step_of_stray {s : State} (hr : s.resetIn = none) (hb : s.bus ≠ []) {e : DecodeError}
    (hd : decodeWith s.params (busFormat s.rx.mode) s.bus = .error e) : step s = .next (busStray s) := by
  simp [step, fetch, hr, hb, fetchBus, hd]

/-- What is read from the bus is no request (R84, R90). -/
theorem isRequest_of_decodeWith_busFormat {p : Params} {m : RxMode} {bs rest : List Byte} {i : Instr}
    (h : decodeWith p (busFormat m) bs = .ok (i, rest)) : isRequest i = false := by
  cases m with
  | between => obtain ⟨-, rfl⟩ | ⟨-, rfl⟩ := decodeControl_eq_ok.mp h <;> rfl
  | command => simp [isRequest, (encodeWith_of_decodeCommand h).1]
  | data => obtain ⟨b, -, rfl⟩ := decodeData_eq_ok.mp h; rfl

/-- Taking a bus instruction off the bus and running it changes the controller alone. -/
theorem exec_bus_eq {i : Instr} {s t : State} {bus : List Byte} (hi : isRequest i = false)
    (h : exec i { s with bus := bus } = .next t) :
    ∃ (shadow : Shadow) (bus' : List Byte) (rx : Rx), t = { s with shadow := shadow, bus := bus', rx := rx } := by
  obtain ⟨shadow, bus', rx, -, rfl⟩ := busInstructionsTouchOnlyTheController i _ t hi h
  exact ⟨shadow, bus', rx, rfl⟩

/-- A bus instruction keeps the canonical form of the RAM. -/
theorem wf_exec_bus {i : Instr} {s t : State} (hi : isRequest i = false) (hw : ramOk s) (h : exec i s = .next t) :
    ramOk t := by
  cases i with
  | ctrlCommand =>
    simp only [exec, execCtrlCommand] at h
    split at h <;> cases h
    · exact wf_shadowOther _ _ _
    · exact hw
  | dataByte d => cases h; exact wf_applyData (sh := s.shadow) hw
  | cmdColHigh high =>
    simp only [exec, execCmdColHigh] at h
    split at h <;> cases h <;> exact hw
  | ctrlData | cmdPageStart _ | cmdColLow _ | cmdAddrModePage | cmdEntireOnResume | cmdEntireOnIgnoreRam
  | cmdDisplayOff | cmdMuxRatio | cmdDisplayOffset | cmdStartLine0 | cmdSegmentRemap0 | cmdComScanNormal
  | cmdComPins | cmdContrast | cmdNormalDisplay | cmdClockDiv | cmdChargePump | cmdDisplayOnPanel =>
    cases h; exact hw
  | _ => cases hi

theorem wf_busStray {s : State} (hw : ramOk s) : ramOk (busStray s) := by
  unfold ramOk
  rw [busStray_shadow]
  split
  · exact wf_shadowOther _ _ _
  · exact hw

/-! ### What a request and a step leave alone -/

/-- What no request changes: the parameters, the address and the inputs that are not the transport's; `LOG` is only
appended to, with records to the selected address (R35, R43, R52). -/
structure RequestKeeps (s t : State) : Prop where
  params : t.params = s.params
  addrSel : t.addrSel = s.addrSel
  hostIn : t.hostIn = s.hostIn
  bus : t.bus = s.bus
  rx : t.rx = s.rx
  resetIn : t.resetIn = s.resetIn
  log : ∃ more, t.log = s.log ++ more ∧ ∀ r ∈ more, r.addr = busAddr s.addrSel

theorem CallsKeep.requestKeeps {s t : State} (h : CallsKeep s t) : RequestKeeps s t := { h with }

theorem requestKeeps_exec {i : Instr} {s t : State} (hi : isRequest i = true) (h : exec i s = .next t) :
    RequestKeeps s t := by
  rcases exec_request_next hi h with ⟨x, rfl⟩ | ⟨op, f, frame, -, -, hrun⟩
  · exact (callsKeep_rejected x s).requestKeeps
  · rw [hrun s rfl rfl] at h
    cases h
    exact { (callsKeep_resume (buildFrame frame (accept op f s))).requestKeeps with }

/-- Settles O41: a request is rejected, or it is latched and its calls are run; neither touches the rest. -/
theorem requestsLeaveTheRestAlone : Obligations.RequestsLeaveTheRestAlone := by
  intro i s t hi h
  obtain ⟨hpar, hsel, hin, hbus, hrx, hres, more, hlog, -⟩ := requestKeeps_exec hi h
  exact ⟨hpar, hsel, hin, hbus, hrx, hres, more, hlog⟩

/-- Short of a construction a step keeps the parameters and the address, and only appends to `LOG`, with records
to that address (R35, R52). -/
theorem step_keeps {s t : State} (hr : s.resetIn = none) (h : step s = .next t) :
    t.params = s.params ∧ t.addrSel = s.addrSel ∧
      ∃ more, t.log = s.log ++ more ∧ ∀ r ∈ more, r.addr = busAddr s.addrSel := by
  have hsame : ∃ more, s.log = s.log ++ more ∧ ∀ r ∈ more, r.addr = busAddr s.addrSel := (CallsKeep.refl s).log
  rcases step_next_cases h with ⟨sel, hsel, -⟩ | ⟨-, hcases⟩
  · rw [hr] at hsel; cases hsel
  rcases hcases with ⟨-, -, rfl⟩ | ⟨-, -, -, rfl⟩ | ⟨-, -, i, rest, hd, hexec⟩ | ⟨-, i, rest, hd, hexec⟩ | ⟨-, -, rfl⟩
  · have hk := callsKeep_resume s
    exact ⟨hk.params, hk.addrSel, hk.log⟩
  · exact ⟨rfl, rfl, hsame⟩
  · have hk := requestKeeps_exec (decide_eq_true (decodeRequest_wellFormed hd).1) hexec
    exact ⟨hk.params, hk.addrSel, hk.log⟩
  · obtain ⟨_, _, _, rfl⟩ := exec_bus_eq (isRequest_of_decodeWith_busFormat hd) hexec
    exact ⟨rfl, rfl, hsame⟩
  · exact ⟨rfl, rfl, hsame⟩

/-- Settles O5, by the cases of a step. -/
theorem logOnlyGrowsAndAddressStays : Obligations.LogOnlyGrowsAndAddressStays := by
  intro s t hr h
  obtain ⟨hpar, hsel, more, hlog, -⟩ := step_keeps hr h
  exact ⟨⟨more, hlog⟩, hsel, hpar⟩

/-- Settles O10: the step is the transport's turn, which leaves the port alone. -/
theorem requestWaitsWhileBusy : Obligations.RequestWaitsWhileBusy := fun s hr hb hp =>
  ⟨resume s, step_of_busy hr hb hp, (callsKeep_resume s).hostIn⟩

/-! ### The invariant -/

/-- `LOG` stays legal, as the frame that is written next is. -/
theorem keptByCalls_logOk : KeptByCalls fun s => logOk s ∧ legalFrame (builtFrame s) where
  build hl h := ⟨h.1, (builtFrame_buildFrame _ _ hl.2).symm ▸ hl⟩
  turn h := h
  record a s h := by
    refine ⟨fun r hr => ?_, h.2⟩
    rcases List.mem_append.mp hr with hr | hr
    · exact h.1 r hr
    · rw [List.mem_singleton.mp hr]
      exact ⟨rfl, h.2⟩
  count _ _ h := h
  answer _ _ h := h
  error _ _ h := h

theorem keptByCalls_ramOk : KeptByCalls ramOk where
  build _ h := h
  turn h := h
  record a s h := by
    cases a with
    | ok => exact wf_shadowApply h
    | err e => exact wf_shadowFail h
  count _ _ h := h
  answer _ _ h := h
  error _ _ h := h

theorem keptByCalls_payloadOk : KeptByCalls payloadOk where
  build _ _ := rfl
  turn h := h
  record _ _ h := h
  count _ _ h := h
  answer _ _ h := h
  error _ _ h := h

/-- The bounds of the latches are about the latches and the parameters. -/
theorem CallsKeep.latchesOk {s t : State} (h : CallsKeep s t) (hl : latchesOk s) : latchesOk t := by
  unfold Machine.latchesOk
  rw [h.params, h.arg0, h.arg1, h.plen]
  exact hl

theorem inv_resume {s : State} (h : s.Inv) (hp : s.phase = .busy) : (resume s).Inv := by
  obtain ⟨hlog, hram, hbusy, -, hpay, hlatch⟩ := h
  obtain ⟨c, -, hf⟩ := hbusy hp
  obtain ⟨hseq, hbusy', -⟩ := resume_stops hbusy hp
  exact ⟨(keptByCalls_logOk.of_resume ⟨hlog, callFrame_legal hf⟩).1, keptByCalls_ramOk.of_resume hram, hbusy', hseq,
    keptByCalls_payloadOk.of_resume hpay, (callsKeep_resume s).latchesOk hlatch⟩

/-- A rejected request leaves an `IDLE` block. -/
theorem inv_rejected {s : State} (h : s.Inv) (x : Condition) : (raise x { s with seq := 0#5 }).Inv := by
  obtain ⟨hlog, hram, -, -, hpay, hlatch⟩ := h
  refine ⟨?_, ?_, fun hb => ?_, ?_, keptByCalls_payloadOk.of_raise x hpay, (callsKeep_rejected x s).latchesOk hlatch⟩
  · cases x <;> exact hlog
  · unfold ramOk; rw [raise_shadow]; exact hram
  · rw [raise_phase] at hb; cases hb
  · unfold seqOk; rw [raise_seq]; exact Nat.zero_le 26

/-- A well-formed request that is accepted leaves a `BUSY` block with the frame of its first call. -/
theorem inv_accepted {i : Instr} {s : State} {op : BitVec 4} {f : Fields} {frame : List Byte} (h : s.Inv)
    (hw : i.wellFormed s.params = true)
    (hf : i.requestFields = some { arg0 := f.arg0, arg1 := f.arg1, plen := f.plen })
    (hb : busyOk (buildFrame frame (accept op f s))) : (buildFrame frame (accept op f s)).Inv := by
  obtain ⟨hlog, hram, -⟩ := h
  exact ⟨hlog, hram, hb, by simp [seqOk], rfl, (wellFormed_iff_fits hf).mp hw⟩

theorem inv_exec_request {i : Instr} {s t : State} (hi : isRequest i = true) (hw : i.wellFormed s.params = true)
    (h : s.Inv) (hexec : exec i s = .next t) : t.Inv := by
  rcases exec_request_next hi hexec with ⟨x, rfl⟩ | ⟨op, f, frame, hf, hb, hrun⟩
  · exact inv_rejected h x
  · rw [hrun s rfl rfl] at hexec
    cases hexec
    exact inv_resume (inv_accepted h hw hf hb) rfl

/-- Of what the controller has, the invariant is about the RAM only. -/
theorem inv_of_controller {s : State} (h : s.Inv) {shadow : Shadow} (bus : List Byte) (rx : Rx)
    (hw : Memory.wf shadow.ram = true) : State.Inv { s with shadow := shadow, bus := bus, rx := rx } := by
  obtain ⟨hlog, -, hbusy, hseq, hpay, hlatch⟩ := h
  exact ⟨hlog, hw, hbusy, hseq, hpay, hlatch⟩

theorem inv_construct {s : State} (h : s.Inv) (sel : AddrSel) : (construct sel s).Inv := by
  obtain ⟨-, -, -, hseq, hpay, hlatch⟩ := h
  exact ⟨nofun, rfl, nofun, hseq, hpay, hlatch⟩

/-- Settles O4, by the cases of a step: a request that is accepted is a `BUSY` block that meets the invariant, and
runs on as a block whose write is answered late does. -/
theorem everyStepKeepsInvariant : Obligations.EveryStepKeepsInvariant := by
  intro s t h hstep
  have hram : ramOk s := h.2.1
  rcases step_next_cases hstep with ⟨sel, -, -, rfl⟩ | ⟨-, hcases⟩
  · exact inv_construct h sel
  rcases hcases with ⟨-, hp, rfl⟩ | ⟨-, -, -, rfl⟩ | ⟨-, -, i, rest, hd, hexec⟩ | ⟨-, i, rest, hd, hexec⟩ | ⟨-, -, rfl⟩
  · exact inv_resume h hp
  · exact h
  · obtain ⟨hfmt, hw⟩ := decodeRequest_wellFormed hd
    exact inv_exec_request (s := { s with hostIn := rest }) (decide_eq_true hfmt) hw h hexec
  · have hi := isRequest_of_decodeWith_busFormat hd
    have hram' := wf_exec_bus hi (s := { s with bus := rest }) hram hexec
    obtain ⟨_, bus, rx, rfl⟩ := exec_bus_eq hi hexec
    exact inv_of_controller h bus rx hram'
  · exact inv_of_controller h [] rxBetween (wf_busStray hram)

end Sys2Proof.Machine
end


section
/-! PROOFS. An answer that comes late (10_state R56, 60_exceptions R232). -/

namespace Sys2Proof.Machine

/-- The state with one of the transport's turns left out: the one without an answer that comes after `k` answers
`Ok` and before the answers `more`. -/
def leaveOutTurn (k : Nat) (more : List (Option Answer)) (s : State) : State :=
  { s with answers := List.replicate k (some .ok) ++ more, answerNo := s.answerNo + 1 }

/-- A run that is `BUSY` at its `k`-th write, which has no answer, has counted `k` writes, and carried on from there
it ends as the run without that turn does. -/
theorem settle_late {cs : List Call} {s : State} {k : Nat} {more : List (Option Answer)}
    (hans : s.answers = List.replicate k (some .ok) ++ none :: more)
    (hb : (settle (runCalls cs) s).phase = .busy) :
    k ≤ cs.length ∧ (settle (runCalls cs) s).seq = s.seq + BitVec.ofNat 5 k ∧
      settle (runCalls (cs.drop k)) (settle (runCalls cs) s) = settle (runCalls cs) (leaveOutTurn k more s) := by
  induction k generalizing cs s with
  | zero =>
    have hn : nextAnswer s = none := nextAnswer_cons hans
    have hturn : useAnswer s = leaveOutTurn 0 more s := by simp [useAnswer, leaveOutTurn, hans]
    rw [settle_none hn]
    exact ⟨Nat.zero_le _, by simp, by rw [hturn]; rfl⟩
  | succ k ih =>
    have hn : nextAnswer s = some .ok := nextAnswer_cons hans
    have hn' : nextAnswer (leaveOutTurn (k + 1) more s) = some .ok := rfl
    rw [settle_ok_afterOk hn] at hb ⊢
    rw [settle_ok_afterOk hn']
    cases cs with
    | nil => cases hb
    | cons c cs =>
      cases hf : callFrame s.params c with
      | error x =>
        rw [runCalls_cons_error (s := afterOk s) hf, raise_phase] at hb
        cases hb
      | ok frame =>
        rw [runCalls_cons_ok (s := afterOk s) hf] at hb ⊢
        rw [runCalls_cons_ok (s := afterOk (leaveOutTurn (k + 1) more s)) hf]
        have hans' : (buildFrame frame (afterOk s)).answers = List.replicate k (some .ok) ++ none :: more :=
          congrArg List.tail hans
        obtain ⟨hk, hseq, hend⟩ := ih hans' hb
        refine ⟨by simpa using hk, ?_, hend⟩
        rw [hseq, BitVec.ofNat_add, BitVec.add_comm (BitVec.ofNat 5 k), ← BitVec.add_assoc]
        rfl

/-- A block that stays `BUSY` is carried on from its pending call to where it comes without that turn. -/
theorem resume_late {s : State} {k : Nat} {more : List (Option Answer)} (hp : s.phase = .busy) (hpend : busyOk s)
    (hans : s.answers = List.replicate k (some .ok) ++ none :: more) (hb : (resume s).phase = .busy) :
    resume (resume s) = resume (leaveOutTurn k more s) := by
  obtain ⟨-, -, hcalls⟩ := resume_stops hpend hp
  obtain ⟨c, hc, -⟩ := hpend hp
  obtain ⟨hk, hseq, hend⟩ := settle_late hans hb
  have hlen := latchedCalls_length_le s
  have hlt : s.seq.toNat < (latchedCalls s).length := (List.getElem?_eq_some_iff.mp hc).1
  rw [List.length_drop] at hk
  have hnat : (resume s).seq.toNat = s.seq.toNat + k := by
    rw [resume, hseq, BitVec.toNat_add, BitVec.toNat_ofNat]
    omega
  rw [List.drop_drop] at hend
  rw [resume.eq_1 (resume s), hcalls hb, hnat, Nat.add_right_comm]
  exact hend

/-- Settles O12: the request is a run of its calls, and the step at the unanswered write carries that run on. -/
theorem lateAnswerChangesNothing : Obligations.LateAnswerChangesNothing := by
  intro i s t k more hi hr hbus hp hans h hb
  rcases exec_request_next hi h with ⟨x, rfl⟩ | ⟨op, f, frame, -, hpend, hrun⟩
  · rw [raise_phase] at hb
    cases hb
  · rw [hrun s rfl rfl] at h
    cases h
    have hkeep := callsKeep_resume (buildFrame frame (accept op f s))
    rw [step_of_busy (hkeep.resetIn.trans hr) (hkeep.bus.trans hbus) hb,
      resume_late (s := buildFrame frame (accept op f s)) rfl hpend hans hb]
    exact (hrun (leaveOutTurn k more s) rfl rfl).symm

end Sys2Proof.Machine
end


section
/-! PROOFS. Requests of one transaction (40_framing R120 to R122, 43_controller_pointer R190, R193), and the small
facts of a request (10_state R25, R27). -/

namespace Sys2Proof.Machine

/-- An answered write of a frame that was just built: its record, and its effect on the shadow state (R56). -/
theorem recordWrite_buildFrame (a : Answer) {frame : List Byte} (s : State) (h : frame.length ≤ 129) :
    recordWrite a (useAnswer (buildFrame frame s)) =
      { useAnswer (buildFrame frame s) with
        log := s.log ++ [{ addr := busAddr s.addrSel, bytes := frame, answer := a }]
        shadow := shadowAfter s.params frame a s.shadow } := by
  unfold recordWrite
  rw [builtFrame_useAnswer, builtFrame_buildFrame frame s h]
  rfl

/-- A request of one call whose write is answered (R56, R120). -/
theorem request_answered {op : BitVec 4} {f : Fields} {c : Call} {s : State} {frame : List Byte} {a : Answer}
    (hp : s.phase = .idle) (hf : callFrame s.params c = .ok frame) (ha : nextAnswer s = some a) :
    ∃ t, request op f [c] s = .next t ∧ OneWrite op f frame a (shadowAfter s.params frame a s.shadow) s t := by
  have hlen := callFrame_length hf
  have hbuf := buildFrame_txbuf_toList frame (accept op f s) hlen
  have htxlen := buildFrame_txlen_toNat frame (accept op f s) hlen
  have hn : nextAnswer (buildFrame frame (accept op f s)) = some a := ha
  rw [request_ok hp hf]
  refine ⟨_, rfl, ?_⟩
  cases a with
  | ok =>
    rw [settle_ok hn, recordWrite_buildFrame .ok _ hlen]
    exact ⟨rfl, rfl, rfl, rfl, rfl, rfl, htxlen, hbuf, ⟨rfl, rfl, rfl, rfl, rfl⟩, ⟨rfl, rfl⟩,
      ⟨rfl, rfl, rfl, rfl, rfl, rfl⟩⟩
  | err e =>
    rw [settle_err hn, recordWrite_buildFrame (.err e) _ hlen]
    exact ⟨rfl, rfl, rfl, rfl, rfl, rfl, htxlen, hbuf, ⟨rfl, rfl, rfl, rfl, rfl⟩, ⟨rfl, rfl⟩,
      ⟨rfl, rfl, rfl, rfl, rfl, rfl⟩⟩

/-- A request whose first write is not answered at its turn (log entry 4). -/
theorem request_unanswered {op : BitVec 4} {f : Fields} {c : Call} {cs : List Call} {s : State} {frame : List Byte}
    (hp : s.phase = .idle) (hf : callFrame s.params c = .ok frame) (ha : nextAnswer s = none) :
    request op f (c :: cs) s = .next (useAnswer (buildFrame frame (accept op f s))) := by
  have hn : nextAnswer (buildFrame frame (accept op f s)) = none := ha
  rw [request_ok hp hf, settle_none hn]

/-! ### SEND_COMMANDS and SEND_DATA -/

/-- Settles O17: one call, whose frame is there as the payload is short enough. -/
theorem sendCommandsWritesOneFrame : Obligations.SendCommandsWritesOneFrame := fun _ _ _ hp ha hl =>
  request_answered hp (frameOf_eq_ok.mpr ⟨hl, rfl⟩) ha

/-- Settles O18: as O17, with the other control byte. -/
theorem sendDataWritesOneFrame : Obligations.SendDataWritesOneFrame := fun _ _ _ hp ha hl =>
  request_answered hp (frameOf_eq_ok.mpr ⟨hl, rfl⟩) ha

/-- Settles O20: the block is left with the frame built and the turn used. -/
theorem unansweredPrimitiveHasNoRecord : Obligations.UnansweredPrimitiveHasNoRecord := by
  intro s r hp hl ha
  have hlen : r.payload.length + 1 ≤ 129 := Nat.succ_le_succ hl
  exact ⟨⟨_, request_unanswered hp (frameOf_eq_ok.mpr ⟨hl, rfl⟩) ha, rfl, rfl, rfl,
      builtFrame_buildFrame (0x00#8 :: r.payload) _ hlen⟩,
    ⟨_, request_unanswered hp (frameOf_eq_ok.mpr ⟨hl, rfl⟩) ha, rfl, rfl, rfl,
      builtFrame_buildFrame (0x40#8 :: r.payload) _ hlen⟩⟩

/-! ### Requests that write no data (R190 b, R193, R194) -/

/-- The frame is a COMMAND frame of a class that writes no cell, on success or failure (R182, R190 b). -/
def StoresNothing (p : Params) (frame : List Byte) : Prop :=
  ∃ payload, frame = 0x00#8 :: payload ∧ classify p payload ≠ .k6

theorem shadowAfter_ram_of_storesNothing {p : Params} {frame : List Byte} (h : StoresNothing p frame) (a : Answer)
    (sh : Shadow) : (shadowAfter p frame a sh).ram = sh.ram := by
  obtain ⟨payload, rfl, hk⟩ := h
  cases a with
  | ok =>
    change (applyCommand p payload sh).ram = sh.ram
    unfold applyCommand
    cases hc : classify p payload with
    | k6 => exact absurd hc hk
    | k0 | k1 _ | k2 _ | k3 _ _ | k4 | k5 => rfl
  | err e =>
    change failedCommandRam p payload sh = sh.ram
    exact if_neg hk

/-- A request of one call has the effect of that call's frame on the shadow state, or none. -/
theorem request_shadow {op : BitVec 4} {f : Fields} {c : Call} {s t : State} (h : request op f [c] s = .next t) :
    t.shadow = s.shadow ∨
      ∃ frame a, callFrame s.params c = .ok frame ∧ t.shadow = shadowAfter s.params frame a s.shadow := by
  obtain ⟨hp, ⟨x, -, rfl⟩ | ⟨frame, hf, -⟩⟩ := request_cases h
  · exact .inl (raise_shadow x _)
  cases ha : nextAnswer s with
  | none =>
    rw [request_unanswered hp hf ha] at h
    cases h
    exact .inl rfl
  | some a =>
    obtain ⟨t', ht', hone⟩ := request_answered (op := op) (f := f) hp hf ha
    rw [ht'] at h
    cases h
    exact .inr ⟨frame, a, hf, hone.shadow⟩

/-- A request of one call that stores nothing leaves the RAM as it is. -/
theorem request_ram {op : BitVec 4} {f : Fields} {c : Call} {s t : State} (h : request op f [c] s = .next t)
    (hc : ∀ frame, callFrame s.params c = .ok frame → StoresNothing s.params frame) :
    t.shadow.ram = s.shadow.ram := by
  rcases request_shadow h with hsh | ⟨frame, a, hf, hsh⟩
  · rw [hsh]
  · rw [hsh, shadowAfter_ram_of_storesNothing (hc frame hf)]

theorem request_sendCommands_ram {op : BitVec 4} {f : Fields} {bytes : List Byte} {s t : State}
    (h : request op f [.sendCommands bytes] s = .next t) (hk : classify s.params bytes ≠ .k6) :
    t.shadow.ram = s.shadow.ram :=
  request_ram h fun _ hf => ⟨bytes, (frameOf_eq_ok.mp hf).2, hk⟩

/-- The page-start byte of a page in range is a payload of class K1 (R85, R182). -/
theorem classify_pageStartByte (p : Params) {page : Nat} (h : pageInRange page = true) :
    classify p [pageStartByte page] = .k1 (BitVec.ofNat 3 page) := by
  rw [pageStartByte_eq page (of_decide_eq_true h), classify_pageStart]

theorem columnBytes_eq {column : Nat} (h : columnInRange column = true) :
    columnBytes column = [0x0#4 ++ BitVec.ofNat 4 column, 0b00010#5 ++ BitVec.ofNat 3 (column / 16)] := by
  have hlt : column < 128 := of_decide_eq_true h
  rw [columnBytes, colLowByte_eq column hlt, colHighByte_eq column hlt]

/-- The column pair of a column in range is a payload of class K2 (R93, R182). -/
theorem classify_columnBytes (p : Params) {column : Nat} (h : columnInRange column = true) :
    classify p (columnBytes column) = .k2 (BitVec.ofNat 7 column) := by
  rw [columnBytes_eq h, classify_column, nibbles_append column (of_decide_eq_true h)]

/-- The page-mode setup of a page and a column in range is a payload of class K3 (R142, R182). -/
theorem classify_pageModeBytes (p : Params) {page column : Nat} (hp : pageInRange page = true)
    (hc : columnInRange column = true) :
    classify p (pageModeBytes p page column) = .k3 (BitVec.ofNat 3 page) (BitVec.ofNat 7 column) := by
  rw [pageModeBytes, columnBytes_eq hc, pageStartByte_eq page (of_decide_eq_true hp), List.append_assoc,
    List.singleton_append, classify_pageMode, nibbles_append column (of_decide_eq_true hc)]

theorem storesNothing_setPage {p : Params} {page : Nat} {frame : List Byte}
    (h : callFrame p (.setPage page) = .ok frame) : StoresNothing p frame := by
  simp only [callFrame] at h
  split at h
  · exact ⟨_, (frameOf_eq_ok.mp h).2, by simp [classify_pageStartByte p ‹_›]⟩
  · cases h

theorem storesNothing_setColumn {p : Params} {column : Nat} {frame : List Byte}
    (h : callFrame p (.setColumn column) = .ok frame) : StoresNothing p frame := by
  simp only [callFrame] at h
  split at h
  · exact ⟨_, (frameOf_eq_ok.mp h).2, by simp [classify_columnBytes p ‹_›]⟩
  · cases h

theorem storesNothing_setMemPageMode {p : Params} {page column : Nat} {frame : List Byte}
    (h : callFrame p (.setMemPageMode page column) = .ok frame) : StoresNothing p frame := by
  simp only [callFrame] at h
  split at h
  · split at h
    · exact ⟨_, (frameOf_eq_ok.mp h).2, by simp [classify_pageModeBytes p ‹_› ‹_›]⟩
    · cases h
  · cases h

/-- A lone entire-on byte is of class K4, or K1 where the parameter byte is a page-start byte (R182). -/
theorem classify_entireOn_ne_k6 (p : Params) {b : Byte} (hb : b = entireOnResume ∨ b = p.entireOnIgnoreRam) :
    classify p [b] ≠ .k6 := by
  by_cases hp : b &&& 0xF8#8 = pageStartBase
  · have hb : b = 0b10110#5 ++ b.extractLsb' 0 3 := pageOfByte_eq_some.mp (if_pos hp)
    rw [hb, classify_pageStart]
    nofun
  · simp [classify_entireOn p hb hp]

theorem illegalRequest_ram {s t : State} (h : illegalRequest s = .next t) : t.shadow.ram = s.shadow.ram := by
  rw [illegalRequest_eq_next h, raise_shadow]

/-- Settles O42: a reserved code writes nothing, and each of the other requests writes one COMMAND frame of a class
that stores nothing. -/
theorem addressingRequestsStoreNothing : Obligations.AddressingRequestsStoreNothing := by
  intro i s t r one two hi h a
  suffices hram : t.shadow.ram = s.shadow.ram by rw [hram]
  simp only [List.mem_cons, List.not_mem_nil, or_false] at hi
  rcases hi with rfl | rfl | rfl | rfl | rfl | rfl | rfl | rfl | rfl
  · exact request_ram h fun _ => storesNothing_setPage
  · exact request_ram h fun _ => storesNothing_setColumn
  · exact request_ram h fun _ => storesNothing_setMemPageMode
  · exact request_sendCommands_ram (op := 0x5#4) (bytes := initSeq) h (by simp [classify_initSeq])
  · exact request_sendCommands_ram (op := 0x7#4) (bytes := [entireOnResume]) h (classify_entireOn_ne_k6 _ (.inl rfl))
  · exact request_sendCommands_ram (op := 0x8#4) (bytes := [s.params.entireOnIgnoreRam]) h
      (classify_entireOn_ne_k6 _ (.inr rfl))
  · exact illegalRequest_ram h
  · exact illegalRequest_ram h
  · exact illegalRequest_ram h

/-! ### Small facts of a request -/

/-- Settles O8: the step in this place. -/
theorem stepRunsThePresentedRequest : Obligations.StepRunsThePresentedRequest := fun _ _ _ hr hb hp hd =>
  step_of_request hr hb hp hd

/-- Settles O34: a reserved code and a request of the table are refused alike. -/
theorem requestsAreRefusedWhileBusy : Obligations.RequestsAreRefusedWhileBusy := by
  intro i s hi hp
  rcases exec_request_form hi s with hill | ⟨op, f, c, cs, -, hreq, -⟩
  · simp only [hill, illegalRequest, hp]
  · rw [hreq s rfl, request_busy hp]

/-- Settles O37: each code is that of `statusCode`. -/
theorem statusCodesAreThoseOfTheTable : Obligations.StatusCodesAreThoseOfTheTable := ⟨rfl, rfl, rfl, rfl, rfl⟩

end Sys2Proof.Machine
end


section
/-! PROOFS. What no step reads: the response registers (10_state R27, R32), and what an earlier operation left in the
transaction buffer (R22, R23). -/

namespace Sys2Proof.Machine

/-! ### Requests on states that agree in what requests read -/

/-- Related states stay related under everything a request is made of. -/
structure UnreadByRequests (R : State → State → Prop) : Prop where
  params : ∀ {s t : State}, R s t → t.params = s.params
  phase : ∀ {s t : State}, R s t → t.phase = s.phase
  raise : ∀ (x : Condition) {s t : State}, R s t → R (raise x s) (raise x t)
  respond : ∀ (st : Status) {s t : State}, R s t → R (respond st s) (respond st t)
  restart : ∀ {s t : State}, R s t → R { s with seq := 0#5 } { t with seq := 0#5 }
  accept : ∀ (op : BitVec 4) (f : Fields) {s t : State}, R s t → R (accept op f s) (accept op f t)
  write : ∀ {frame : List Byte} {g : State → State} {s t : State}, frame.length ≤ 129 →
    (∀ {s t}, R s t → R (g s) (g t)) → R s t →
    R (settle g (buildFrame frame s)) (settle g (buildFrame frame t))

section

variable {R : State → State → Prop} {s t : State}

theorem UnreadByRequests.of_runCalls (hR : UnreadByRequests R) (cs : List Call) (h : R s t) :
    R (runCalls cs s) (runCalls cs t) := by
  induction cs generalizing s t with
  | nil => exact hR.respond .ok h
  | cons c cs ih =>
    cases hf : callFrame s.params c with
    | error x =>
      rw [runCalls_cons_error hf, runCalls_cons_error (hR.params h ▸ hf)]
      exact hR.raise x h
    | ok frame =>
      rw [runCalls_cons_ok hf, runCalls_cons_ok (hR.params h ▸ hf)]
      exact hR.write (callFrame_length hf) ih h

theorem UnreadByRequests.of_reject (hR : UnreadByRequests R) (x : Condition) (h : R s t) :
    OutRel R (reject x s) (reject x t) := by
  by_cases hx : x = .rangeViolation ∧ s.params.rangePolicy = .fault
  · rw [reject, reject, if_pos hx, if_pos (hR.params h ▸ hx)]
    rfl
  · rw [reject, reject, if_neg hx, if_neg (hR.params h ▸ hx)]
    exact hR.raise x (hR.restart h)

theorem UnreadByRequests.of_illegalRequest (hR : UnreadByRequests R) (h : R s t) :
    OutRel R (illegalRequest s) (illegalRequest t) := by
  unfold illegalRequest
  rw [hR.phase h]
  cases s.phase with
  | busy => rfl
  | idle => exact hR.of_reject .illegalOp h

theorem UnreadByRequests.of_request (hR : UnreadByRequests R) (op : BitVec 4) (f : Fields) (c : Call)
    (cs : List Call) (h : R s t) : OutRel R (request op f (c :: cs) s) (request op f (c :: cs) t) := by
  cases hp : s.phase with
  | busy =>
    rw [request_busy hp, request_busy ((hR.phase h).trans hp)]
    rfl
  | idle =>
    have hp' := (hR.phase h).trans hp
    cases hf : callFrame s.params c with
    | error x =>
      rw [request_error hp hf, request_error hp' (hR.params h ▸ hf)]
      exact hR.of_reject x h
    | ok frame =>
      rw [request_ok hp hf, request_ok hp' (hR.params h ▸ hf)]
      exact hR.write (callFrame_length hf) (hR.of_runCalls cs) (hR.accept op f h)

/-- Every request takes related states to related outcomes. -/
theorem UnreadByRequests.of_exec (hR : UnreadByRequests R) {i : Instr} (hi : isRequest i = true) (h : R s t) :
    OutRel R (exec i s) (exec i t) := by
  rcases exec_request_form hi s with hill | ⟨op, f, c, cs, -, hreq, -⟩
  · rw [hill, hill]
    exact hR.of_illegalRequest h
  · rw [hreq s rfl, hreq t (hR.params h)]
    exact hR.of_request op f c cs h

end

/-! ### The transaction buffer -/

/-- The two states differ at most in `TXBUF` and `TXLEN`. -/
def SameButBuffer (s t : State) : Prop := ∃ buf len, t = { s with txbuf := buf, txlen := len }

/-- The transport is given a frame that was just built, whatever was in the buffer before (R22, R120). -/
theorem sameButBuffer_write {frame : List Byte} {g : State → State} {s t : State} (hl : frame.length ≤ 129)
    (hg : ∀ {s t}, SameButBuffer s t → SameButBuffer (g s) (g t)) (h : SameButBuffer s t) :
    SameButBuffer (settle g (buildFrame frame s)) (settle g (buildFrame frame t)) := by
  obtain ⟨buf, len, rfl⟩ := h
  rcases settle_cases g (buildFrame frame s) with ⟨hn, hs⟩ | ⟨hn, hs⟩ | ⟨e, hn, hs⟩
  · rw [hs, settle_none (s := buildFrame frame { s with txbuf := buf, txlen := len }) hn]
    exact ⟨_, _, rfl⟩
  · rw [hs, settle_ok (s := buildFrame frame { s with txbuf := buf, txlen := len }) hn,
      recordWrite_buildFrame .ok _ hl, recordWrite_buildFrame .ok _ hl]
    exact hg ⟨_, _, rfl⟩
  · rw [hs, settle_err (s := buildFrame frame { s with txbuf := buf, txlen := len }) hn,
      recordWrite_buildFrame (.err e) _ hl, recordWrite_buildFrame (.err e) _ hl]
    exact ⟨_, _, rfl⟩

theorem unreadByRequests_buffer : UnreadByRequests SameButBuffer where
  params := fun ⟨_, _, h⟩ => h ▸ rfl
  phase := fun ⟨_, _, h⟩ => h ▸ rfl
  raise x _ _ := fun ⟨buf, len, h⟩ => by subst h; cases x <;> exact ⟨buf, len, rfl⟩
  respond _ _ _ := fun ⟨buf, len, h⟩ => h ▸ ⟨buf, len, rfl⟩
  restart := fun ⟨buf, len, h⟩ => h ▸ ⟨buf, len, rfl⟩
  accept _ _ _ _ := fun ⟨buf, len, h⟩ => h ▸ ⟨buf, len, rfl⟩
  write := sameButBuffer_write

/-- Settles O40: the two requests end in states that agree but for the buffer. -/
theorem staleBufferIsNeverRead : Obligations.StaleBufferIsNeverRead := by
  intro i s t buf len hi h
  have hrel : OutRel SameButBuffer (exec i s) (exec i { s with txbuf := buf, txlen := len }) :=
    unreadByRequests_buffer.of_exec hi ⟨buf, len, rfl⟩
  rw [h] at hrel
  obtain ⟨t', ht', _, _, rfl⟩ := hrel.next
  exact ⟨_, ht', rfl⟩

/-! ### The response registers -/

/-- The two states differ at most in `STATUS` and `TERR_REG`. -/
def SameButResponse (s t : State) : Prop := ∃ st e, t = { s with status := st, terr := e }

/-- The transport's turn reads no response, where what follows on `Ok` reads none. -/
theorem sameButResponse_settle {g : State → State} {s t : State}
    (hg : ∀ {s t}, SameButResponse s t → SameButResponse (g s) (g t)) (h : SameButResponse s t) :
    SameButResponse (settle g s) (settle g t) := by
  obtain ⟨st, e, rfl⟩ := h
  rcases settle_cases g s with ⟨hn, hs⟩ | ⟨hn, hs⟩ | ⟨err, hn, hs⟩
  · rw [hs, settle_none (s := { s with status := st, terr := e }) hn]
    exact ⟨st, e, rfl⟩
  · rw [hs, settle_ok (s := { s with status := st, terr := e }) hn]
    exact hg ⟨st, e, rfl⟩
  · rw [hs, settle_err (s := { s with status := st, terr := e }) hn]
    exact ⟨.transportError, err, rfl⟩

theorem unreadByRequests_response : UnreadByRequests SameButResponse where
  params := fun ⟨_, _, h⟩ => h ▸ rfl
  phase := fun ⟨_, _, h⟩ => h ▸ rfl
  raise x _ _ := fun ⟨_, _, h⟩ => by subst h; cases x <;> exact ⟨_, _, rfl⟩
  respond _ _ _ := fun ⟨_, _, h⟩ => h ▸ ⟨_, _, rfl⟩
  restart := fun ⟨_, _, h⟩ => h ▸ ⟨_, _, rfl⟩
  accept _ _ _ _ := fun ⟨_, _, h⟩ => h ▸ ⟨_, _, rfl⟩
  write _ hg := fun ⟨st, e, h⟩ => sameButResponse_settle hg (h ▸ ⟨st, e, rfl⟩)

theorem sameButResponse_resume {s t : State} (h : SameButResponse s t) : SameButResponse (resume s) (resume t) := by
  obtain ⟨st, e, rfl⟩ := h
  exact sameButResponse_settle (unreadByRequests_response.of_runCalls _) ⟨st, e, rfl⟩

/-- No instruction of the bus reads a response. -/
theorem sameButResponse_exec_bus {i : Instr} {s t : State} (hi : isRequest i = false) (h : SameButResponse s t) :
    OutRel SameButResponse (exec i s) (exec i t) := by
  obtain ⟨st, e, rfl⟩ := h
  cases i with
  | ctrlCommand =>
    simp only [exec, execCtrlCommand]
    split <;> exact ⟨st, e, rfl⟩
  | cmdColHigh high =>
    simp only [exec, execCmdColHigh]
    split <;> exact ⟨st, e, rfl⟩
  | ctrlData | dataByte _ | cmdPageStart _ | cmdColLow _ | cmdAddrModePage | cmdEntireOnResume
  | cmdEntireOnIgnoreRam | cmdDisplayOff | cmdMuxRatio | cmdDisplayOffset | cmdStartLine0 | cmdSegmentRemap0
  | cmdComScanNormal | cmdComPins | cmdContrast | cmdNormalDisplay | cmdClockDiv | cmdChargePump
  | cmdDisplayOnPanel => exact ⟨st, e, rfl⟩
  | _ => cases hi

theorem sameButResponse_exec (i : Instr) {s t : State} (h : SameButResponse s t) :
    OutRel SameButResponse (exec i s) (exec i t) := by
  cases hi : isRequest i with
  | true => exact unreadByRequests_response.of_exec hi h
  | false => exact sameButResponse_exec_bus hi h

/-- The step finds what is next without the response, and does it without it. -/
theorem sameButResponse_step {s s' t : State} (h : SameButResponse s s') (hstep : step s = .next t) :
    ∃ t', step s' = .next t' ∧ SameButResponse t t' := by
  have hresume := sameButResponse_resume h
  obtain ⟨st, e, rfl⟩ := h
  rcases step_next_cases hstep with ⟨sel, hsel, hp, rfl⟩ | ⟨hr, hcases⟩
  · rw [step_of_construct (s := { s with status := st, terr := e }) hsel]
    exact ⟨_, by simp only [constructStep, hp]; rfl, st, e, rfl⟩
  rcases hcases with ⟨hb, hp, rfl⟩ | ⟨hb, hp, ⟨_, hd⟩, rfl⟩ | ⟨hb, hp, i, rest, hd, hexec⟩ | ⟨hb, i, rest, hd, hexec⟩
    | ⟨hb, ⟨_, hd⟩, rfl⟩
  · exact ⟨_, step_of_busy hr hb hp, hresume⟩
  · exact ⟨_, step_of_no_request hr hb hp hd, st, e, rfl⟩
  · rw [step_of_request (s := { s with status := st, terr := e }) hr hb hp hd]
    exact (hexec ▸ sameButResponse_exec i ⟨st, e, rfl⟩ : OutRel SameButResponse (.next t) _).next
  · rw [step_of_bus (s := { s with status := st, terr := e }) hr hb hd]
    exact (hexec ▸ sameButResponse_exec i ⟨st, e, rfl⟩ : OutRel SameButResponse (.next t) _).next
  · exact ⟨_, step_of_stray (s := { s with status := st, terr := e }) hr hb hd, st, e, rfl⟩

/-- Settles O39: the two steps end in states that agree but for the response. -/
theorem responseRegistersAreNeverRead : Obligations.ResponseRegistersAreNeverRead := by
  intro s t st e h
  obtain ⟨t', ht', _, _, rfl⟩ := sameButResponse_step ⟨st, e, rfl⟩ h
  exact ⟨_, ht', rfl⟩

end Sys2Proof.Machine
end


section
/-! PROOFS. The space of bus addresses (20_memory R52). -/

namespace Sys2Proof.Machine

/-- Settles O6: `ADDR_SEL` is kept, and the records added go to its address, by the cases of a step. -/
theorem everyWriteGoesToTheSelectedAddress : Obligations.EveryWriteGoesToTheSelectedAddress :=
  ⟨rfl, rfl, fun _ _ hr h => (step_keeps hr h).2⟩

end Sys2Proof.Machine
end


section
/-! PROOFS. DATA taken byte by byte, under either `WRAP_RULE` (43_controller_pointer R189, R191, R192). -/

namespace Sys2Proof.Machine

/-! ### Runs of bytes that wrap on their page -/

/-- Where a run that wraps lands depends on its first column modulo 128 only. -/
theorem memWriteWrapped_mod (m : Memory) (page : BitVec 3) (c : Nat) (d : List Byte) :
    memWriteWrapped m page (c % columnCount) d = memWriteWrapped m page c d := by
  induction d generalizing m c with
  | nil => rfl
  | cons v d ih =>
    simp only [memWriteWrapped, Nat.mod_mod]
    rw [← ih _ (c % columnCount + 1), Nat.mod_add_mod, ih]

/-- A run that stays on its page does not wrap. -/
theorem memWriteWrapped_eq_memWriteRun (m : Memory) (page : BitVec 3) {c : Nat} {d : List Byte}
    (h : c + d.length ≤ columnCount) : memWriteWrapped m page c d = memWriteRun m (cellAddr page c) d := by
  induction d generalizing m c with
  | nil => rfl
  | cons v d ih =>
    rw [List.length_cons] at h
    rw [memWriteWrapped, Nat.mod_eq_of_lt (by omega), ih _ (by omega)]
    rfl

/-! ### The cases of `applyData` -/

section

variable {p : Params} {sh : Shadow} {page : BitVec 3} {col : BitVec 7} {d : List Byte}

/-- The pointer wraps on its page at the end of a row (R192). -/
def WrapsAtRowEnd (p : Params) (sh : Shadow) : Prop := p.wrapRule = .pageModeWrap ∧ sh.mode = some .page

theorem landing_eq_some : landing p sh = some (page, col) ↔ pointsAt p sh page col := by
  unfold landing pointsAt
  cases sh.page <;> cases sh.col <;> cases p.dataNeedsPageMode <;> by_cases hm : sh.mode = some .page <;> simp [hm]

theorem applyData_nowhere (h : landing p sh = none) (hd : d ≠ []) : applyData p d sh = shadowDataUnknown sh := by
  simp [applyData, h, hd]

theorem applyData_inRow (h : landing p sh = some (page, col)) (hd : d ≠ [])
    (hc : col.toNat + d.length < columnCount) :
    applyData p d sh = { sh with
      col := some (BitVec.ofNat 7 (col.toNat + d.length))
      ram := memWriteRun sh.ram (cellAddr page col.toNat) d } := by
  simp [applyData, h, hd, hc]

theorem applyData_rowEnd (h : landing p sh = some (page, col)) (hw : ¬ WrapsAtRowEnd p sh) (hd : d ≠ [])
    (hc : columnCount ≤ col.toNat + d.length) :
    applyData p d sh = { sh with
      page := none
      col := none
      ram := if col.toNat + d.length > columnCount then []
             else memWriteRun sh.ram (cellAddr page col.toNat) (d.take (columnCount - col.toNat)) } := by
  have hw' : ¬ (p.wrapRule = .pageModeWrap ∧ sh.mode = some .page) := hw
  simp only [applyData, List.isEmpty_iff, hd, h, Nat.not_lt.mpr hc, shadowRowEnd, if_neg hw', if_false]

/-- Where the pointer wraps, one rule covers the row and its end. -/
theorem applyData_wraps (h : landing p sh = some (page, col)) (hw : WrapsAtRowEnd p sh) :
    applyData p d sh = { sh with
      col := some (BitVec.ofNat 7 ((col.toNat + d.length) % columnCount))
      ram := memWriteWrapped sh.ram page col.toNat d } := by
  by_cases hd : d = []
  · obtain ⟨-, hcol, -⟩ := landing_eq_some.mp h
    have hlt : col.toNat % columnCount = col.toNat := Nat.mod_eq_of_lt col.isLt
    subst hd
    simp [applyData, memWriteWrapped, hlt, ← hcol]
  by_cases hc : col.toNat + d.length < columnCount
  · rw [applyData_inRow h hd hc, Nat.mod_eq_of_lt hc, memWriteWrapped_eq_memWriteRun _ _ (Nat.le_of_lt hc)]
  · have hw' : p.wrapRule = .pageModeWrap ∧ sh.mode = some .page := hw
    simp only [applyData, List.isEmpty_iff, hd, h, hc, shadowRowEnd, if_pos hw', if_false]

/-- No DATA payload selects a mode (R189, R191, R192). -/
theorem applyData_mode (p : Params) (d : List Byte) (sh : Shadow) : (applyData p d sh).mode = sh.mode := by
  simp only [applyData, shadowRowEnd, shadowDataUnknown]
  split
  · rfl
  · split
    · rfl
    · split
      · rfl
      · split <;> rfl

theorem wrapsAtRowEnd_applyData : WrapsAtRowEnd p (applyData p d sh) ↔ WrapsAtRowEnd p sh := by
  rw [WrapsAtRowEnd, WrapsAtRowEnd, applyData_mode]

/-! ### The first byte of a payload and then the rest -/

theorem landing_byte_inRow (h : landing p sh = some (page, col)) (v : Byte) (hc : col.toNat + 1 < columnCount) :
    landing p (applyData p [v] sh) = some (page, BitVec.ofNat 7 (col.toNat + 1)) := by
  obtain ⟨hpage, -, hmode⟩ := landing_eq_some.mp h
  rw [applyData_inRow h (List.cons_ne_nil v []) hc]
  exact landing_eq_some.mpr ⟨hpage, rfl, hmode⟩

theorem landing_byte_wraps (h : landing p sh = some (page, col)) (v : Byte) (hw : WrapsAtRowEnd p sh) :
    landing p (applyData p [v] sh) = some (page, BitVec.ofNat 7 ((col.toNat + 1) % columnCount)) := by
  obtain ⟨hpage, -, hmode⟩ := landing_eq_some.mp h
  rw [applyData_wraps h hw]
  exact landing_eq_some.mpr ⟨hpage, rfl, hmode⟩

/-- The pointer that wraps names a cell after every byte. -/
theorem applyData_cons_wraps (h : landing p sh = some (page, col)) (hw : WrapsAtRowEnd p sh) (v : Byte)
    (d : List Byte) : applyData p (v :: d) sh = applyData p d (applyData p [v] sh) := by
  have hcol : (BitVec.ofNat 7 ((col.toNat + 1) % columnCount)).toNat = (col.toNat + 1) % columnCount :=
    Nat.mod_mod _ _
  have hsum : col.toNat + (v :: d).length = col.toNat + 1 + d.length := by rw [List.length_cons]; omega
  rw [applyData_wraps (landing_byte_wraps h v hw) (wrapsAtRowEnd_applyData.mpr hw), applyData_wraps h hw,
    applyData_wraps h hw, hcol, memWriteWrapped_mod, Nat.mod_add_mod, hsum]
  rfl

/-- The pointer that does not wrap is lost at the byte at column 127, and a byte after that makes the RAM unknown. -/
theorem applyData_cons_lost (h : landing p sh = some (page, col)) (hw : ¬ WrapsAtRowEnd p sh) (v : Byte)
    (hd : d ≠ []) : applyData p (v :: d) sh = applyData p d (applyData p [v] sh) := by
  have hvd : v :: d ≠ [] := List.cons_ne_nil v d
  have hv : [v] ≠ [] := List.cons_ne_nil v []
  have hsum : col.toNat + (v :: d).length = col.toNat + 1 + d.length := by rw [List.length_cons]; omega
  by_cases hlast : col.toNat + 1 < columnCount
  · have h' := landing_byte_inRow h v hlast
    have hcol : (BitVec.ofNat 7 (col.toNat + 1)).toNat = col.toNat + 1 := Nat.mod_eq_of_lt hlast
    by_cases hrow : col.toNat + 1 + d.length < columnCount
    · rw [applyData_inRow h hvd (by omega), applyData_inRow h' hd (by omega), applyData_inRow h hv hlast, hcol, hsum]
      rfl
    · have htake : columnCount - col.toNat = columnCount - (col.toNat + 1) + 1 := by omega
      rw [applyData_rowEnd h hw hvd (by omega),
        applyData_rowEnd h' (mt wrapsAtRowEnd_applyData.mp hw) hd (by omega), applyData_inRow h hv hlast, hcol,
        hsum, htake]
      rfl
  · have hend : columnCount ≤ col.toNat + [v].length := Nat.le_of_not_lt hlast
    have hpast : columnCount < col.toNat + (v :: d).length := by
      have := List.length_pos_iff.mpr hd
      omega
    rw [applyData_rowEnd h hw hvd (Nat.le_of_lt hpast), applyData_rowEnd h hw hv hend, applyData_nowhere rfl hd,
      if_pos hpast]
    rfl

/-- A DATA payload has the effect of its first byte and then of the rest (R189). -/
theorem applyData_cons (p : Params) (v : Byte) (d : List Byte) (sh : Shadow) :
    applyData p (v :: d) sh = applyData p d (applyData p [v] sh) := by
  by_cases hd : d = []
  · subst hd; rfl
  cases h : landing p sh with
  | none =>
    rw [applyData_nowhere h (List.cons_ne_nil v d), applyData_nowhere h (List.cons_ne_nil v []),
      applyData_nowhere rfl hd]
    rfl
  | some cell =>
    by_cases hw : WrapsAtRowEnd p sh
    · exact applyData_cons_wraps h hw v d
    · exact applyData_cons_lost h hw v hd

end

end Sys2Proof.Machine
end


section
/-! PROOFS. A frame taken one instruction at a time has the effect of `ShadowApply` (43_controller_pointer R181,
R182, R189; log entries 14 to 16, 33). -/

namespace Sys2Proof.Machine

/-! ### Some number of steps -/

/-- The machine comes from `s` to `t` in some number of steps. -/
def Reaches (s t : State) : Prop := ∃ k, Host.Core.run Sys2Proof.core k s = .next t

theorem Reaches.refl (s : State) : Reaches s s := ⟨0, rfl⟩

theorem Reaches.head {s t u : State} (h : step s = .next t) : Reaches t u → Reaches s u := by
  rintro ⟨k, hk⟩
  have hstep : Sys2Proof.core.step s = .next t := h
  refine ⟨k + 1, ?_⟩
  simp only [Host.Core.run, hstep]
  exact hk

/-! ### The controller inside a frame -/

/-- The state `s` with the controller inside a payload of kind `m` of which `bs` is left, or between frames where
nothing is; `sh` is the shadow state, `low` a low nibble that waits for its high one (log entries 14, 15). -/
def inFrame (s : State) (m : RxMode) (low : Option (BitVec 4)) (sh : Shadow) (bs : List Byte) : State :=
  { s with shadow := sh, bus := bs, rx := if bs.isEmpty then rxBetween else { mode := m, low := low } }

/-- A frame that is over has changed the shadow state and the bus alone. -/
theorem inFrame_nil {s : State} (hrx : s.rx = rxBetween) (m : RxMode) (low : Option (BitVec 4)) (sh : Shadow) :
    inFrame s m low sh [] = { s with bus := [], shadow := sh } := by
  simp [inFrame, ← hrx]

section

variable {s : State}

theorem step_inFrame (hr : s.resetIn = none) {m : RxMode} {bs rest : List Byte} {i : Instr} (hbs : bs ≠ [])
    (hd : decodeWith s.params (busFormat m) bs = .ok (i, rest)) (low : Option (BitVec 4)) (sh : Shadow) :
    step (inFrame s m low sh bs) = exec i { s with shadow := sh, bus := rest, rx := { mode := m, low := low } } := by
  have hrx : (inFrame s m low sh bs).rx = { mode := m, low := low } := by simp [inFrame, hbs]
  rw [step_of_bus (s := inFrame s m low sh bs) hr hbs (i := i) (rest := rest) (by rw [hrx]; exact hd)]
  simp [inFrame, hbs]

/-! ### DATA payloads -/

theorem step_dataByte (hr : s.resetIn = none) (v : Byte) (d : List Byte) (sh : Shadow) :
    step (inFrame s .data none sh (v :: d)) = .next (inFrame s .data none (applyData s.params [v] sh) d) := by
  rw [step_inFrame hr (List.cons_ne_nil v d) rfl]
  rfl

theorem reaches_data (hr : s.resetIn = none) (d : List Byte) (sh : Shadow) :
    Reaches (inFrame s .data none sh d) (inFrame s .data none (applyData s.params d sh) []) := by
  induction d generalizing sh with
  | nil => exact .refl _
  | cons v d ih =>
    rw [applyData_cons]
    exact .head (step_dataByte hr v d sh) (ih _)

/-! ### COMMAND payloads -/

/-- The parameter bytes of the commands are the table's own (R7, R88). -/
def TableCommandBytes (p : Params) : Prop :=
  p.addrModePageSeq.bytes = [0x20#8, 0x02#8] ∧ p.entireOnIgnoreRam = 0xA5#8

/-- Inside a COMMAND payload a step runs the command whose bytes are next (R90). -/
theorem step_command (hr : s.resetIn = none) (hp : TableCommandBytes s.params) {i : Instr} (hi : i.format = .cmd)
    (low : Option (BitVec 4)) (sh : Shadow) (rest : List Byte) :
    step (inFrame s .command low sh (encodeWith s.params i ++ rest)) =
      exec i { s with shadow := sh, bus := rest, rx := { mode := .command, low := low } } := by
  have hd : decodeWith s.params (busFormat .command) (encodeWith s.params i ++ rest) = .ok (i, rest) :=
    decodeCommand_encodeWith hi hp.1 hp.2 rest
  refine step_inFrame hr (fun hnil => ?_) hd low sh
  rw [hnil] at hd
  cases hd

theorem step_pageStart (hr : s.resetIn = none) (hp : TableCommandBytes s.params) (page : BitVec 3) (sh : Shadow)
    (rest : List Byte) :
    step (inFrame s .command none sh ((0b10110#5 ++ page) :: rest)) =
      .next (inFrame s .command none (shadowPageStart s.params page sh) rest) :=
  step_command hr hp (i := .cmdPageStart page) rfl none sh rest

theorem step_colLow (hr : s.resetIn = none) (hp : TableCommandBytes s.params) (low : BitVec 4) (sh : Shadow)
    (rest : List Byte) :
    step (inFrame s .command none sh ((0x0#4 ++ low) :: rest)) =
      .next (inFrame s .command (some low) (shadowHalfColumn sh) rest) :=
  step_command hr hp (i := .cmdColLow low) rfl none sh rest

theorem step_colHigh (hr : s.resetIn = none) (hp : TableCommandBytes s.params) (low : BitVec 4) (high : BitVec 3)
    (sh : Shadow) (rest : List Byte) :
    step (inFrame s .command (some low) sh ((0b00010#5 ++ high) :: rest)) =
      .next (inFrame s .command none (shadowColumn (high ++ low) sh) rest) :=
  step_command hr hp (i := .cmdColHigh high) rfl (some low) sh rest

theorem step_addrModePage (hr : s.resetIn = none) (hp : TableCommandBytes s.params) (sh : Shadow)
    (rest : List Byte) :
    step (inFrame s .command none sh (s.params.addrModePageSeq.bytes ++ rest)) =
      .next (inFrame s .command none (shadowPageMode sh) rest) :=
  step_command hr hp (i := .cmdAddrModePage) rfl none sh rest

/-- A column pair sets the column, half-set in between (R185, R187). -/
theorem reaches_column (hr : s.resetIn = none) (hp : TableCommandBytes s.params) (high : BitVec 3) (low : BitVec 4)
    (sh : Shadow) :
    Reaches (inFrame s .command none sh [0x0#4 ++ low, 0b00010#5 ++ high])
      (inFrame s .command none (shadowColumn (high ++ low) sh) []) :=
  .head (step_colLow hr hp low sh _) (.head (step_colHigh hr hp low high _ _) (.refl _))

/-- The instruction is a command that writes nothing of the shadow state (R193, R194). -/
def Silent (i : Instr) : Prop := i.format = .cmd ∧ ∀ t : State, exec i t = .next (busDone t)

/-- Commands that write nothing leave the shadow state as it is. -/
theorem reaches_silent (hr : s.resetIn = none) (hp : TableCommandBytes s.params) (is : List Instr)
    (his : ∀ i ∈ is, Silent i) (sh : Shadow) :
    Reaches (inFrame s .command none sh (is.flatMap (encodeWith s.params))) (inFrame s .command none sh []) := by
  induction is with
  | nil => exact .refl _
  | cons i is ih =>
    obtain ⟨hi, hexec⟩ := his i List.mem_cons_self
    refine .head ?_ (ih fun j hj => his j (List.mem_cons_of_mem i hj))
    rw [List.flatMap_cons, step_command hr hp hi, hexec]
    rfl

/-- The commands of `INIT_SEQ`, in order (R91). -/
def initCommands : List Instr :=
  [.cmdDisplayOff, .cmdMuxRatio, .cmdDisplayOffset, .cmdStartLine0, .cmdSegmentRemap0, .cmdComScanNormal, .cmdComPins,
   .cmdContrast, .cmdEntireOnResume, .cmdNormalDisplay, .cmdClockDiv, .cmdChargePump, .cmdDisplayOnPanel]

theorem silent_of_mem_initCommands : ∀ i ∈ initCommands, Silent i := by
  intro i hi
  simp only [initCommands, List.mem_cons, List.not_mem_nil, or_false] at hi
  rcases hi with rfl | rfl | rfl | rfl | rfl | rfl | rfl | rfl | rfl | rfl | rfl | rfl | rfl <;>
    exact ⟨rfl, fun _ => rfl⟩

theorem silent_cmdEntireOnResume : Silent .cmdEntireOnResume := ⟨rfl, fun _ => rfl⟩

theorem silent_cmdEntireOnIgnoreRam : Silent .cmdEntireOnIgnoreRam := ⟨rfl, fun _ => rfl⟩

/-! ### The classes of a COMMAND payload (R182) -/

theorem matchPageStart_eq_some {c : List Byte} {page : BitVec 3} :
    matchPageStart c = some page ↔ c = [0b10110#5 ++ page] := by
  constructor
  · intro h
    unfold matchPageStart at h
    split at h
    · rw [pageOfByte_eq_some.mp h]
    · cases h
  · rintro rfl
    exact pageOfByte_append page

theorem matchColumn_eq_some {c : List Byte} {col : BitVec 7} :
    matchColumn c = some col ↔
      ∃ (high : BitVec 3) (low : BitVec 4), c = [0x0#4 ++ low, 0b00010#5 ++ high] ∧ col = high ++ low := by
  constructor
  · intro h
    unfold matchColumn at h
    split at h
    · obtain ⟨high, low, rfl, rfl, rfl⟩ := colOfPair_eq_some.mp h
      exact ⟨high, low, rfl, rfl⟩
    · cases h
  · rintro ⟨high, low, rfl, rfl⟩
    exact colOfPair_append high low

/-- A payload of a recognised class, by its bytes; every other is of class K6. -/
theorem classify_cases (p : Params) (c : List Byte) :
    c = [] ∨ (∃ page : BitVec 3, c = [0b10110#5 ++ page]) ∨
    (∃ (high : BitVec 3) (low : BitVec 4), c = [0x0#4 ++ low, 0b00010#5 ++ high]) ∨
    (∃ (page high : BitVec 3) (low : BitVec 4),
      c = p.addrModePageSeq.bytes ++ [0b10110#5 ++ page, 0x0#4 ++ low, 0b00010#5 ++ high]) ∨
    c = [entireOnResume] ∨ c = [p.entireOnIgnoreRam] ∨ c = initSeq ∨ classify p c = .k6 := by
  by_cases hnil : c = []
  · exact .inl hnil
  cases hpage : matchPageStart c with
  | some page => exact .inr (.inl ⟨page, matchPageStart_eq_some.mp hpage⟩)
  | none =>
  cases hcol : matchColumn c with
  | some col =>
    obtain ⟨high, low, hc, -⟩ := matchColumn_eq_some.mp hcol
    exact .inr (.inr (.inl ⟨high, low, hc⟩))
  | none =>
  cases hmode : matchPageMode p c with
  | some cell =>
    obtain ⟨high, low, hc, -⟩ := matchPageMode_eq_some.mp hmode
    exact .inr (.inr (.inr (.inl ⟨cell.1, high, low, hc⟩)))
  | none =>
    by_cases hk4 : c = [entireOnResume] ∨ c = [p.entireOnIgnoreRam]
    · exact .inr (.inr (.inr (.inr (hk4.imp_right .inl))))
    by_cases hk5 : c = initSeq
    · exact .inr (.inr (.inr (.inr (.inr (.inr (.inl hk5))))))
    · refine .inr (.inr (.inr (.inr (.inr (.inr (.inr ?_))))))
      simp only [classify, List.isEmpty_iff, hnil, hpage, hcol, hmode, hk4, hk5, if_false]

/-- A COMMAND payload of a recognised class, command by command, has the effect of the whole (R182). -/
theorem reaches_command (hr : s.resetIn = none) (hp : TableCommandBytes s.params) {c : List Byte} (sh : Shadow)
    (hk : classify s.params c ≠ .k6) :
    Reaches (inFrame s .command none sh c) (inFrame s .command none (applyCommand s.params c sh) []) := by
  rcases classify_cases s.params c with
    rfl | ⟨page, rfl⟩ | ⟨high, low, rfl⟩ | ⟨page, high, low, rfl⟩ | rfl | rfl | rfl | hk6
  · exact .refl _
  · rw [applyCommand, classify_pageStart]
    exact .head (step_pageStart hr hp page sh []) (.refl _)
  · rw [applyCommand, classify_column]
    exact reaches_column hr hp high low sh
  · rw [applyCommand, classify_pageMode]
    exact .head (step_addrModePage hr hp sh _) (.head (step_pageStart hr hp page _ _) (reaches_column hr hp high low _))
  · rw [applyCommand, classify_entireOn _ (.inl rfl) (by decide)]
    exact reaches_silent hr hp [.cmdEntireOnResume] (List.forall_mem_singleton.mpr silent_cmdEntireOnResume) sh
  · rw [applyCommand, classify_entireOn _ (.inr rfl) (by rw [hp.2]; decide)]
    exact reaches_silent hr hp [.cmdEntireOnIgnoreRam] (List.forall_mem_singleton.mpr silent_cmdEntireOnIgnoreRam) sh
  · rw [applyCommand, classify_initSeq]
    exact reaches_silent hr hp initCommands silent_of_mem_initCommands sh
  · exact absurd hk6 hk

/-! ### Frames, by their first byte (R84, R181) -/

theorem step_between (hr : s.resetIn = none) (hrx : s.rx = rxBetween) {bs rest : List Byte} {i : Instr}
    (hb : s.bus = bs) (hd : decodeControl bs = .ok (i, rest)) : step s = exec i { s with bus := rest } := by
  subst hb
  refine step_of_bus hr (fun hnil => ?_) (by rw [hrx]; exact hd)
  rw [hnil] at hd
  cases hd

theorem execCtrlCommand_of_k6 (hk : classify s.params s.bus = .k6) :
    execCtrlCommand s = .next (inFrame s .command none (applyCommand s.params s.bus s.shadow) []) := by
  simp only [execCtrlCommand, applyCommand, hk]
  rfl

theorem execCtrlCommand_of_ne_k6 (hk : classify s.params s.bus ≠ .k6) :
    execCtrlCommand s = .next (busBegin .command s) := by
  unfold execCtrlCommand
  split
  · exact absurd ‹_› hk
  · rfl

theorem reaches_commandFrame (hr : s.resetIn = none) (hrx : s.rx = rxBetween) (hp : TableCommandBytes s.params)
    {c : List Byte} (hb : s.bus = 0x00#8 :: c) :
    Reaches s (inFrame s .command none (applyCommand s.params c s.shadow) []) := by
  have hstep := step_between hr hrx hb (decodeControl_eq_ok.mpr (.inl ⟨rfl, rfl⟩))
  by_cases hk : classify s.params c = .k6
  · exact .head (hstep.trans (execCtrlCommand_of_k6 (s := { s with bus := c }) hk)) (.refl _)
  · exact .head (hstep.trans (execCtrlCommand_of_ne_k6 (s := { s with bus := c }) hk))
      (reaches_command hr hp s.shadow hk)

theorem reaches_dataFrame (hr : s.resetIn = none) (hrx : s.rx = rxBetween) {d : List Byte}
    (hb : s.bus = 0x40#8 :: d) : Reaches s (inFrame s .data none (applyData s.params d s.shadow) []) :=
  .head (step_between hr hrx hb (decodeControl_eq_ok.mpr (.inr ⟨rfl, rfl⟩))) (reaches_data hr d s.shadow)

/-- A frame with another first byte has no effect (log entry 33). -/
theorem reaches_strayFrame (hr : s.resetIn = none) (hrx : s.rx = rxBetween) {b : Byte} {bs : List Byte}
    (hb : s.bus = b :: bs) (hc : b ≠ ctrlCommandByte) (hd : b ≠ ctrlDataByte) :
    Reaches s (inFrame s .between none s.shadow []) := by
  have hdec : decodeControl s.bus = .error (.notAControlByte b) := by simp only [hb, decodeControl, hc, hd, if_false]
  have hstep := step_of_stray hr (by simp [hb]) (e := .notAControlByte b) (by rw [hrx]; exact hdec)
  refine .head (hstep.trans ?_) (.refl _)
  rw [busStray, hrx]
  rfl

end

/-- Settles O53, by the first byte of the frame: a DATA payload byte by byte, a COMMAND payload by its class. -/
theorem frameTakenBytewiseIsShadowApply : Obligations.FrameTakenBytewiseIsShadowApply := by
  intro s b payload hr hrx hb hseq hram
  change Reaches s _
  rw [shadowApply]
  by_cases hc : b = ctrlCommandByte
  · subst hc
    rw [if_pos rfl, ← inFrame_nil hrx .command none]
    exact reaches_commandFrame hr hrx ⟨hseq, hram⟩ hb
  rw [if_neg hc]
  by_cases hd : b = ctrlDataByte
  · subst hd
    rw [if_pos rfl, ← inFrame_nil hrx .data none]
    exact reaches_dataFrame hr hrx hb
  · rw [if_neg hd, ← inFrame_nil hrx .between none]
    exact reaches_strayFrame hr hrx hb hc hd

end Sys2Proof.Machine
end


section
/-! PROOFS. The six requests of one COMMAND frame: the bytes they write, and what their payload does to the shadow
state (30_encoding R85 to R93, 41_addressing R140 to R142, 42_composed R160, R167, R168). -/

namespace Sys2Proof.Machine

/-! ### The frame of a call that passes its checks (R92 to R94) -/

theorem callFrame_sendCommands (p : Params) {bytes : List Byte} (h : bytes.length ≤ 128) :
    callFrame p (.sendCommands bytes) = .ok (0x00#8 :: bytes) := frameOf_eq_ok.mpr ⟨h, rfl⟩

theorem callFrame_setPage (p : Params) {page : Nat} (h : page < 8) :
    callFrame p (.setPage page) = .ok [0x00#8, pageStartByte page] := by
  have hr : pageInRange page = true := decide_eq_true h
  simp only [callFrame, hr, if_true]
  rfl

theorem callFrame_setColumn (p : Params) {column : Nat} (h : column < 128) :
    callFrame p (.setColumn column) = .ok (0x00#8 :: columnBytes column) := by
  have hr : columnInRange column = true := decide_eq_true h
  simp only [callFrame, hr, if_true]
  rfl

theorem pageModeBytes_eq (p : Params) (page column : Nat) :
    pageModeBytes p page column =
      p.addrModePageSeq.bytes ++ [pageStartByte page, colLowByte column, colHighByte column] := by
  simp [pageModeBytes, columnBytes]

/-- The bound on `ADDR_MODE_PAGE_SEQ` is what makes room for the page start and the column pair (R142). -/
theorem callFrame_setMemPageMode (p : Params) {page column : Nat} (hp : page < 8) (hc : column < 128) :
    callFrame p (.setMemPageMode page column) = .ok (0x00#8 :: pageModeBytes p page column) := by
  have hpr : pageInRange page = true := decide_eq_true hp
  have hcr : columnInRange column = true := decide_eq_true hc
  have hlen : (pageModeBytes p page column).length ≤ 128 := by
    rw [pageModeBytes_eq, List.length_append]
    exact p.addrModePageSeq.fits
  simp only [callFrame, hpr, hcr, if_true]
  exact frameOf_eq_ok.mpr ⟨hlen, rfl⟩

/-! ### The effect of a COMMAND payload, by its class (R182) -/

section

variable {p : Params} {c : List Byte} {page : BitVec 3} {col : BitVec 7} (sh : Shadow)

theorem applyCommand_of_k1 (h : classify p c = .k1 page) : applyCommand p c sh = shadowPageStart p page sh := by
  simp only [applyCommand, h]

theorem applyCommand_of_k2 (h : classify p c = .k2 col) : applyCommand p c sh = shadowColumn col sh := by
  simp only [applyCommand, h]

theorem applyCommand_of_k3 (h : classify p c = .k3 page col) :
    applyCommand p c sh = shadowColumn col (shadowPageStart p page (shadowPageMode sh)) := by
  simp only [applyCommand, h]

theorem applyCommand_of_k4 (h : classify p c = .k4) : applyCommand p c sh = sh := by
  simp only [applyCommand, h]

theorem applyCommand_of_k5 (h : classify p c = .k5) : applyCommand p c sh = sh := by
  simp only [applyCommand, h]

end

/-- A failed COMMAND frame of a recognised class loses pointer and mode and keeps the RAM (R190 b). -/
theorem shadowFail_command {p : Params} {c : List Byte} (hk : classify p c ≠ .k6) (sh : Shadow) :
    shadowFail p (0x00#8 :: c) sh = { page := none, col := none, mode := none, ram := sh.ram } := by
  have hram : failedCommandRam p c sh = sh.ram := if_neg hk
  rw [← hram]
  rfl

/-- The shadow state `ok` where a COMMAND frame of a recognised class is answered `Ok`; on an error `sh` with pointer
and mode unknown (R190 b). -/
def okOrLost (ok sh : Shadow) : Answer → Shadow
  | .ok => ok
  | .err _ => { page := none, col := none, mode := none, ram := sh.ram }

/-- A request of one COMMAND frame of a recognised class, whose write is answered (R56, R182, R190). -/
theorem request_command_answered {op : BitVec 4} {f : Fields} {call : Call} {s : State} {c : List Byte} {a : Answer}
    {k : CmdClass} {ok : Shadow} (hp : s.phase = .idle) (ha : nextAnswer s = some a)
    (hf : callFrame s.params call = .ok (0x00#8 :: c)) (hk : classify s.params c = k) (hne : k ≠ .k6)
    (hok : applyCommand s.params c s.shadow = ok) :
    ∃ t, request op f [call] s = .next t ∧ OneWrite op f (0x00#8 :: c) a (okOrLost ok s.shadow a) s t := by
  have hafter : shadowAfter s.params (0x00#8 :: c) a s.shadow = okOrLost ok s.shadow a := by
    cases a with
    | ok => exact hok
    | err e => exact shadowFail_command (hk ▸ hne) s.shadow
  exact hafter ▸ request_answered hp hf ha

/-! ### The addressing requests (R140 to R142) -/

/-- Settles O21: the page-start byte is a payload of class K1. -/
theorem setPageWritesPageStart : Obligations.SetPageWritesPageStart := by
  intro s r a hp ha hr
  have hk : classify s.params [pageStartByte r.arg0] = .k1 (BitVec.ofNat 3 r.arg0) :=
    classify_pageStartByte s.params (decide_eq_true hr)
  exact request_command_answered hp ha (callFrame_setPage s.params hr) hk nofun
    (applyCommand_of_k1 s.shadow hk)

/-- Settles O22: the nibble pair is a payload of class K2. -/
theorem setColumnWritesNibblePair : Obligations.SetColumnWritesNibblePair := by
  intro s r a hp ha hr
  have hk : classify s.params (columnBytes r.arg0) = .k2 (BitVec.ofNat 7 r.arg0) :=
    classify_columnBytes s.params (decide_eq_true hr)
  exact request_command_answered hp ha (callFrame_setColumn s.params hr) hk nofun
    (applyCommand_of_k2 s.shadow hk)

/-- Settles O23: the whole payload is of class K3, whatever the mode bytes are. -/
theorem setMemPageModeWritesOneFrame : Obligations.SetMemPageModeWritesOneFrame := by
  intro s r a hp ha hpage hcol
  have hk : classify s.params (pageModeBytes s.params r.arg0 r.arg1) =
      .k3 (BitVec.ofNat 3 r.arg0) (BitVec.ofNat 7 r.arg1) :=
    classify_pageModeBytes s.params (decide_eq_true hpage) (decide_eq_true hcol)
  have hf := callFrame_setMemPageMode s.params hpage hcol
  rw [pageModeBytes_eq] at hk hf
  exact request_command_answered hp ha hf hk nofun (applyCommand_of_k3 s.shadow hk)

/-! ### The composed requests of one frame (R160, R167, R168) -/

/-- Settles O24: the sequence is the payload of class K5. -/
theorem initWritesTheSequence : Obligations.InitWritesTheSequence := by
  intro s r a hp ha
  have hk : classify s.params initSeq = .k5 := classify_initSeq s.params
  exact request_command_answered hp ha (callFrame_sendCommands s.params (by decide)) hk nofun
    (applyCommand_of_k5 s.shadow hk)

/-- Settles O25: the byte is a payload of class K4. -/
theorem displayOnWritesResume : Obligations.DisplayOnWritesResume := by
  intro s r a hp ha
  have hk : classify s.params [entireOnResume] = .k4 := classify_entireOn s.params (.inl rfl) (by decide)
  exact request_command_answered hp ha (callFrame_sendCommands s.params (by decide)) hk nofun
    (applyCommand_of_k4 s.shadow hk)

/-- Settles O26: the byte is a payload of class K4, as it is no page-start byte. -/
theorem displayOnIgnoreRamWritesItsByte : Obligations.DisplayOnIgnoreRamWritesItsByte := by
  intro s r a hp ha hb
  have hk : classify s.params [s.params.entireOnIgnoreRam] = .k4 := classify_entireOn s.params (.inr rfl) hb
  exact request_command_answered hp ha (callFrame_sendCommands s.params (by simp)) hk nofun
    (applyCommand_of_k4 s.shadow hk)

end Sys2Proof.Machine
end


section
/-! PROOFS. Requests that are rejected: nothing but `STATUS` and `SEQ` changes (30_encoding R92 to R96,
60_exceptions R211, R212, R214, R219; log entry 12). -/

namespace Sys2Proof.Machine

/-! ### What a rejection answers -/

/-- In `IDLE` a rejection that is no fault answers the condition's status, with `SEQ` at 0 (R214, R219). -/
theorem reject_idle {x : Condition} {s : State} (hp : s.phase = .idle) (hx : ∀ e, x ≠ .transport e)
    (hr : ¬ (x = .rangeViolation ∧ s.params.rangePolicy = .fault)) :
    reject x s = .next { s with status := conditionStatus x, seq := 0#5 } := by
  have hraise : raise x { s with seq := 0#5 } = respond (conditionStatus x) { s with seq := 0#5 } := by
    cases x with
    | transport e => exact absurd rfl (hx e)
    | bufferTooSmall | rangeViolation | illegalOp => rfl
  rw [reject, if_neg hr, hraise, respond, ← hp]

theorem illegalRequest_idle {s : State} (hp : s.phase = .idle) :
    illegalRequest s = .next { s with status := .illegalOp, seq := 0#5 } := by
  have hill : illegalRequest s = reject .illegalOp s := by simp only [illegalRequest, hp]
  exact hill.trans (reject_idle hp nofun nofun)

theorem request_outOfRange {op : BitVec 4} {f : Fields} {c : Call} {s : State} (hp : s.phase = .idle)
    (hr : s.params.rangePolicy = .report) (hf : callFrame s.params c = .error .rangeViolation) :
    request op f [c] s = .next { s with status := .rangeViolation, seq := 0#5 } :=
  (request_error hp hf).trans (reject_idle hp nofun fun h => by rw [hr] at h; cases h.2)

theorem request_oversize {op : BitVec 4} {f : Fields} {c : Call} {s : State} (hp : s.phase = .idle)
    (hf : callFrame s.params c = .error .bufferTooSmall) :
    request op f [c] s = .next { s with status := .bufferTooSmall, seq := 0#5 } :=
  (request_error hp hf).trans (reject_idle hp nofun nofun)

/-! ### The calls that fail their range checks (R92, R93, R143) -/

theorem pageInRange_eq_false {page : Nat} (h : 8 ≤ page) : pageInRange page = false :=
  decide_eq_false (Nat.not_lt.mpr h)

theorem columnInRange_eq_false {column : Nat} (h : 128 ≤ column) : columnInRange column = false :=
  decide_eq_false (Nat.not_lt.mpr h)

theorem callFrame_setPage_outOfRange (p : Params) {page : Nat} (h : 8 ≤ page) :
    callFrame p (.setPage page) = .error .rangeViolation := by
  simp [callFrame, pageInRange_eq_false h]

theorem callFrame_setColumn_outOfRange (p : Params) {column : Nat} (h : 128 ≤ column) :
    callFrame p (.setColumn column) = .error .rangeViolation := by
  simp [callFrame, columnInRange_eq_false h]

theorem callFrame_setMemPageMode_outOfRange (p : Params) {page column : Nat} (h : 8 ≤ page ∨ 128 ≤ column) :
    callFrame p (.setMemPageMode page column) = .error .rangeViolation := by
  rcases h with h | h
  · simp [callFrame, pageInRange_eq_false h]
  · simp [callFrame, columnInRange_eq_false h]

/-! ### The statements -/

/-- Settles O30: a reserved code is rejected whatever its fields are. -/
theorem reservedCodesAnswerIllegalOp : Obligations.ReservedCodesAnswerIllegalOp :=
  ⟨rfl, fun _ _ _ _ hp => ⟨illegalRequest_idle hp, illegalRequest_idle hp, illegalRequest_idle hp⟩⟩

/-- Settles O31: the range checks come before everything, so the call has no frame. -/
theorem rangeViolationIsReported : Obligations.RangeViolationIsReported := fun s _ hp hr =>
  ⟨fun h => request_outOfRange hp hr (callFrame_setPage_outOfRange s.params h),
    fun h => request_outOfRange hp hr (callFrame_setColumn_outOfRange s.params h),
    fun h => request_outOfRange hp hr (callFrame_setMemPageMode_outOfRange s.params h)⟩

/-- Settles O33: no frame exists for such a payload. -/
theorem oversizePayloadIsRejected : Obligations.OversizePayloadIsRejected := fun _ _ hp hl =>
  ⟨request_oversize hp (frameOf_eq_error.mpr ⟨hl, rfl⟩), request_oversize hp (frameOf_eq_error.mpr ⟨hl, rfl⟩)⟩

end Sys2Proof.Machine
end


section
/-! PROOFS. The controller's side of a step: the control bytes and the dispatch to the instruction on the bus
(30_encoding R84, R90, R98, 43_controller_pointer R181, R195, R196). -/

namespace Sys2Proof.Machine

/-! ### After a control byte -/

theorem busBegin_of_over {s : State} (h : s.bus = []) (m : RxMode) : busBegin m s = { s with rx := rxBetween } := by
  simp [busBegin, h]

theorem busBegin_of_payload {s : State} (h : s.bus ≠ []) (m : RxMode) :
    busBegin m s = { s with rx := { mode := m, low := none } } := by
  simp [busBegin, h]

/-- Settles O54: a frame that is over is of class K0, so that it is left as one of a recognised class is. -/
theorem controlBytesBeginAPayload : Obligations.ControlBytesBeginAPayload := by
  intro s
  refine ⟨fun hb => ⟨?_, ?_⟩, fun hb => ?_, fun hb hk => ?_, fun hk => execCtrlCommand_of_k6 hk⟩
  · have hk : classify s.params s.bus ≠ .k6 := by rw [hb, classify_nil]; nofun
    exact (execCtrlCommand_of_ne_k6 hk).trans (congrArg _ (busBegin_of_over hb .command))
  · exact congrArg _ (busBegin_of_over hb .data)
  · exact congrArg _ (busBegin_of_payload hb .data)
  · exact (execCtrlCommand_of_ne_k6 hk).trans (congrArg _ (busBegin_of_payload hb .command))

/-! ### Bytes on the bus that are no instruction -/

theorem busStray_of_between {s : State} (h : s.rx.mode = .between) :
    busStray s = { s with bus := [], rx := rxBetween } := by
  simp [busStray, h]

theorem busStray_of_command {s : State} (h : s.rx.mode = .command) :
    busStray s = { s with shadow := shadowOther s.params s.bus s.shadow, bus := [], rx := rxBetween } := by
  simp [busStray, h]

/-- Settles O9: in each place of the frame the step reads the format that place has. -/
theorem stepRunsTheBusInstruction : Obligations.StepRunsTheBusInstruction := by
  intro s hr hb
  refine ⟨fun i rest h => ?_, fun e hm hd => ?_, fun e hm hd => ?_⟩
  · rcases h with ⟨hm, hd⟩ | ⟨hm, hd⟩ | ⟨hm, hd⟩ <;> exact step_of_bus hr hb (by rw [hm]; exact hd)
  · exact (step_of_stray hr hb (by rw [hm]; exact hd)).trans (congrArg _ (busStray_of_between hm))
  · exact (step_of_stray hr hb (by rw [hm]; exact hd)).trans (congrArg _ (busStray_of_command hm))

end Sys2Proof.Machine
end


section
/-! PROOFS. The operation codes and a few words of the table (30_encoding R80, R81, R96, R101). -/

namespace Sys2Proof

open Sys2Proof.Machine

/-! ### The head of a request with the default parameters (log entry 5) -/

/-- The three header bytes of the default layout name the header word (R80). -/
theorem headerWord_defaultParams (op : BitVec 4) (arg0 arg1 : Byte) :
    headerWord defaultParams op arg0.toNat arg1.toNat = ofBytes [arg1, arg0, 0#4 ++ op] := by
  have hop : (0#4 ++ op).toNat = op.toNat := by decide +revert
  simp only [headerWord, defaultParams, ofBytes, hop]
  omega

/-- The two `plen` bytes, low first, name the number that they are, high first. -/
theorem toNat_append_eq_ofBytes (l1 l0 : Byte) : (l1 ++ l0).toNat = ofBytes [l0, l1] := by
  rw [BitVec.toNat_append, ← Nat.shiftLeft_add_eq_or_of_lt l0.isLt, Nat.shiftLeft_eq]
  simp [ofBytes]
  omega

/-- The head of a request is five bytes with the default parameters: `arg1`, `arg0`, the operation code and the two
bytes of `plen`. -/
theorem encodeHead_defaultParams (op : BitVec 4) (arg0 arg1 l0 l1 : Byte) :
    encodeHead defaultParams op { arg0 := arg0.toNat, arg1 := arg1.toNat, plen := (l1 ++ l0).toNat } =
      [arg1, arg0, 0#4 ++ op, l0, l1] := by
  have hhead := toBytes_ofBytes [arg1, arg0, 0#4 ++ op]
  have hplen := toBytes_ofBytes [l0, l1]
  rw [← headerWord_defaultParams] at hhead
  rw [← toNat_append_eq_ofBytes] at hplen
  calc encodeHead defaultParams op { arg0 := arg0.toNat, arg1 := arg1.toNat, plen := (l1 ++ l0).toNat }
    _ = toBytes 3 (headerWord defaultParams op arg0.toNat arg1.toNat) ++ toBytes 2 (l1 ++ l0).toNat := rfl
    _ = [arg1, arg0, 0#4 ++ op] ++ [l0, l1] := congr (congrArg (· ++ ·) hhead) hplen

/-- Those five bytes are read as the operation code and its fields, and the rest as `decodeBody` reads it. -/
theorem decode_req_bytes (op : BitVec 4) (arg0 arg1 l0 l1 : Byte) (rest : List Byte) :
    decode .req (arg1 :: arg0 :: (0#4 ++ op) :: l0 :: l1 :: rest) =
      decodeBody op { arg0 := arg0.toNat, arg1 := arg1.toNat, plen := (l1 ++ l0).toNat } rest := by
  have hfits : ReqArgs.fits defaultParams { arg0 := arg0.toNat, arg1 := arg1.toNat, plen := (l1 ++ l0).toNat } :=
    ⟨arg0.isLt, arg1.isLt, (l1 ++ l0).isLt⟩
  rw [← decodeRequest_encodeHead op hfits rest, encodeHead_defaultParams]
  rfl

/-! ### What is read after the head (R81, R96) -/

/-- A payload that is there whole is taken off the bytes. -/
theorem decodeSend_of_le (make : SendArgs → Instr) {f : ReqArgs} {rest : List Byte} (h : f.plen ≤ rest.length) :
    decodeSend make f rest =
      .ok (make { arg0 := f.arg0, arg1 := f.arg1, payload := rest.take f.plen }, rest.drop f.plen) :=
  if_neg (Nat.not_lt.mpr h)

/-- From code 0x2 on no payload byte is read. -/
theorem decodeBody_of_two_le {op : BitVec 4} (h : 2#4 ≤ op) (f : ReqArgs) (rest : List Byte) :
    decodeBody op f rest = .ok (requestOf op f, rest) := by
  have hop : ¬ op = 0x0#4 ∧ ¬ op = 0x1#4 := by decide +revert
  rw [decodeBody, if_neg hop.1, if_neg hop.2]

theorem requestOf_of_ten_or_eleven {op : BitVec 4} (h : op = 0xA#4 ∨ op = 0xB#4) (f : ReqArgs) :
    requestOf op f = .reservedAB (op.extractLsb' 0 1) f := by
  rcases h with rfl | rfl <;> rfl

theorem requestOf_of_twelve_le {op : BitVec 4} (h : 0xC#4 ≤ op) (f : ReqArgs) :
    requestOf op f = .reservedCF (op.extractLsb' 0 2) f := by
  have hop : op = 0xC#4 ∨ op = 0xD#4 ∨ op = 0xE#4 ∨ op = 0xF#4 := by decide +revert
  rcases hop with rfl | rfl | rfl | rfl <;> rfl

/-! ### The statements -/

/-- Settles O16: the head is read as its fields; codes 0x0 and 0x1 then take their payload, every other code is
`requestOf`. -/
theorem operationCodesDecode : Obligations.OperationCodesDecode := by
  intro arg0 arg1 op l0 l1 rest
  rw [decode_req_bytes]
  refine ⟨?_, ?_, fun hop => ⟨requestOf op _, decodeBody_of_two_le hop _ rest, ?_⟩⟩
  · rintro rfl hl
    exact decodeSend_of_le .sendCommands hl
  · rintro rfl hl
    exact decodeSend_of_le .sendData hl
  · refine ⟨?_, ?_, ?_, ?_, ?_, ?_, ?_, ?_, fun h => requestOf_of_ten_or_eleven h _,
      fun h => requestOf_of_twelve_le h _⟩ <;> (rintro rfl; rfl)

/-- Settles O15: each word is decoded by evaluation. -/
theorem someTableWordsDecode : Obligations.SomeTableWordsDecode := ⟨rfl, rfl, rfl, rfl, rfl, rfl, rfl, rfl⟩

end Sys2Proof
end


section
/-! PROOFS. The result of a framing primitive: one write and no retry, or none (40_framing R123, R124). -/

namespace Sys2Proof.Machine

section
variable {s : State} {r : SendArgs} {i : Instr}

/-- A payload that passes the size check is written as one frame, with either control byte (R121, R122). -/
theorem exec_primitive_oneWrite {a : Answer} (hp : s.phase = .idle) (hi : i = .sendCommands r ∨ i = .sendData r)
    (ha : nextAnswer s = some a) (hl : r.payload.length ≤ 128) :
    ∃ op f frame sh t, exec i s = .next t ∧ OneWrite op f frame a sh s t := by
  rcases hi with rfl | rfl
  · exact ⟨_, _, _, _, sendCommandsWritesOneFrame s r a hp ha hl⟩
  · exact ⟨_, _, _, _, sendDataWritesOneFrame s r a hp ha hl⟩

/-- A payload that fails it is rejected by either primitive (R123). -/
theorem exec_primitive_oversize (hp : s.phase = .idle) (hi : i = .sendCommands r ∨ i = .sendData r)
    (hl : 128 < r.payload.length) : exec i s = .next { s with status := .bufferTooSmall, seq := 0#5 } := by
  obtain ⟨hcommands, hdata⟩ := oversizePayloadIsRejected s r hp hl
  rcases hi with rfl | rfl
  · exact hcommands
  · exact hdata

end

/-- Settles O19: the size check decides between the rejection, which leaves `LOG`, and the one write, whose answer
is the result. -/
theorem primitiveAddsOneRecordOrNone : Obligations.PrimitiveAddsOneRecordOrNone := by
  intro s r i a hp hi ha
  rcases Nat.lt_or_ge 128 r.payload.length with hl | hl
  · exact ⟨_, exec_primitive_oversize hp hi hl, hp, fun _ => ⟨rfl, rfl⟩, fun hle => absurd hl (Nat.not_lt.mpr hle)⟩
  · obtain ⟨op, f, frame, sh, t, hexec, hwrite⟩ := exec_primitive_oneWrite hp hi ha hl
    refine ⟨t, hexec, hwrite.phase, fun hlt => absurd hlt (Nat.not_lt.mpr hl), fun _ => ⟨⟨frame, hwrite.log⟩, ?_⟩⟩
    cases a with
    | ok => exact hwrite.status
    | err e => exact ⟨hwrite.status, hwrite.terr⟩

end Sys2Proof.Machine
end


section
/-! PROOFS. A run of several calls, write by write: how far it comes, and what it has written (30_encoding R100,
40_framing R120, 42_composed R164 to R166). -/

namespace Sys2Proof.Machine

/-- The calls pass their checks, and these are their frames, in order. -/
def HaveFrames (p : Params) (calls : List Call) (frames : List (List Byte)) : Prop :=
  calls.map (callFrame p) = frames.map .ok

section

variable {p : Params} {calls calls' : List Call} {frames frames' : List (List Byte)} {frame : List Byte}

theorem haveFrames_nil_right : HaveFrames p calls [] ↔ calls = [] := List.map_eq_nil_iff

theorem haveFrames_cons_right : HaveFrames p calls (frame :: frames) ↔
    ∃ c cs, calls = c :: cs ∧ callFrame p c = .ok frame ∧ HaveFrames p cs frames := List.map_eq_cons_iff

theorem HaveFrames.append (h : HaveFrames p calls frames) (h' : HaveFrames p calls' frames') :
    HaveFrames p (calls ++ calls') (frames ++ frames') := by
  rw [HaveFrames, List.map_append, List.map_append, h, h']

theorem HaveFrames.take (k : Nat) (h : HaveFrames p calls frames) : HaveFrames p (calls.take k) (frames.take k) := by
  rw [HaveFrames, List.map_take, List.map_take, h]

theorem HaveFrames.drop (k : Nat) (h : HaveFrames p calls frames) : HaveFrames p (calls.drop k) (frames.drop k) := by
  rw [HaveFrames, List.map_drop, List.map_drop, h]

end

/-- The effect on the controller of frames that are all answered `Ok`, in order (R181). -/
def applyFrames (p : Params) (frames : List (List Byte)) (sh : Shadow) : Shadow :=
  frames.foldl (fun sh frame => shadowApply p frame sh) sh

/-- The state `t` comes from `s` by writing the frames in order, each answered `Ok`: a record and a turn of the
transport for each, counted in `SEQ`, with the request still going on. -/
structure OksWritten (frames : List (List Byte)) (s t : State) : Prop where
  log : t.log = s.log ++ frames.map fun f => { addr := busAddr s.addrSel, bytes := f, answer := .ok }
  shadow : t.shadow = applyFrames s.params frames s.shadow
  seq : t.seq = s.seq + BitVec.ofNat 5 frames.length
  terr : t.terr = s.terr
  phase : t.phase = s.phase
  answers : t.answers = s.answers.drop frames.length
  params : t.params = s.params
  addrSel : t.addrSel = s.addrSel

theorem OksWritten.nil (s : State) : OksWritten [] s s :=
  ⟨(List.append_nil _).symm, rfl, (BitVec.add_zero _).symm, rfl, rfl, rfl, rfl, rfl⟩

theorem OksWritten.bytes {frames : List (List Byte)} {s t : State} (h : OksWritten frames s t) :
    t.log.map LogRecord.bytes = s.log.map LogRecord.bytes ++ frames := by
  simp [h.log, Function.comp_def]

/-- A write answered `Ok`, and then more of them. -/
theorem OksWritten.cons {frame : List Byte} {frames : List (List Byte)} {s t : State} (hl : frame.length ≤ 129)
    (h : OksWritten frames (afterOk (buildFrame frame s)) t) : OksWritten (frame :: frames) s t := by
  have hstep : afterOk (buildFrame frame s) =
      { useAnswer (buildFrame frame s) with
        log := s.log ++ [{ addr := busAddr s.addrSel, bytes := frame, answer := .ok }]
        shadow := shadowApply s.params frame s.shadow
        seq := s.seq + 1#5 } := by
    rw [afterOk, recordWrite_buildFrame .ok s hl]
    rfl
  rw [hstep] at h
  obtain ⟨hlog, hshadow, hseq, hterr, hphase, hanswers, hparams, haddr⟩ := h
  refine ⟨?_, hshadow, ?_, hterr, hphase, ?_, hparams, haddr⟩
  · rw [hlog, List.append_assoc]
    rfl
  · rw [hseq, List.length_cons, Nat.add_comm, BitVec.ofNat_add, ← BitVec.add_assoc]
  · rw [hanswers, List.length_cons, useAnswer_answers, buildFrame_answers, List.drop_tail]

/-- The run goes on with the next call after a write answered `Ok`. -/
theorem runCalls_cons_answered_ok {c : Call} {cs : List Call} {s : State} {frame : List Byte}
    (hf : callFrame s.params c = .ok frame) (hn : nextAnswer s = some .ok) :
    runCalls (c :: cs) s = runCalls cs (afterOk (buildFrame frame s)) := by
  rw [runCalls_cons_ok hf]
  exact settle_ok_afterOk (s := buildFrame frame s) hn

theorem callsKeep_runCalls (calls : List Call) (s : State) : CallsKeep s (runCalls calls s) :=
  (keptByCalls_callsKeep s).of_runCalls calls (.refl s)

/-- While the transport answers `Ok`, the run goes on call by call. -/
theorem runCalls_append_of_oks {calls : List Call} {frames : List (List Byte)} {s : State}
    {more : List (Option Answer)} (rest : List Call) (hf : HaveFrames s.params calls frames)
    (ha : s.answers = List.replicate frames.length (some .ok) ++ more) :
    ∃ t, OksWritten frames s t ∧ runCalls (calls ++ rest) s = runCalls rest t := by
  induction frames generalizing calls s with
  | nil =>
    cases haveFrames_nil_right.mp hf
    exact ⟨s, .nil s, rfl⟩
  | cons frame frames ih =>
    obtain ⟨c, cs, rfl, hc, hcs⟩ := haveFrames_cons_right.mp hf
    have hn : nextAnswer s = some .ok := nextAnswer_cons ha
    have ha' : (afterOk (buildFrame frame s)).answers = List.replicate frames.length (some .ok) ++ more :=
      congrArg List.tail ha
    obtain ⟨t, ht, hrun⟩ := ih (s := afterOk (buildFrame frame s)) hcs ha'
    exact ⟨t, ht.cons (callFrame_length hc), (runCalls_cons_answered_ok hc hn).trans hrun⟩

/-- The end of a request at a write of this frame that fails: its record, its effect on the controller, and the
response with its error (R56, R166, R218, R220). -/
def failAt (frame : List Byte) (e : TErr) (s : State) : State :=
  respond .transportError { useAnswer (buildFrame frame s) with
    log := s.log ++ [{ addr := busAddr s.addrSel, bytes := frame, answer := .err e }]
    shadow := shadowFail s.params frame s.shadow
    terr := e }

@[simp] theorem failAt_log (frame : List Byte) (e : TErr) (s : State) :
    (failAt frame e s).log = s.log ++ [{ addr := busAddr s.addrSel, bytes := frame, answer := .err e }] := rfl
@[simp] theorem failAt_shadow (frame : List Byte) (e : TErr) (s : State) :
    (failAt frame e s).shadow = shadowFail s.params frame s.shadow := rfl
@[simp] theorem failAt_seq (frame : List Byte) (e : TErr) (s : State) : (failAt frame e s).seq = s.seq := rfl

/-- The run ends at a write answered with an error. -/
theorem runCalls_cons_answered_err {c : Call} (cs : List Call) {s : State} {frame : List Byte} {e : TErr}
    (hf : callFrame s.params c = .ok frame) (hn : nextAnswer s = some (.err e)) :
    runCalls (c :: cs) s = failAt frame e s := by
  have hn' : nextAnswer (buildFrame frame s) = some (.err e) := hn
  rw [runCalls_cons_ok hf, settle_err hn', recordWrite_buildFrame (.err e) s (callFrame_length hf)]
  rfl

/-- The run ends at the first write that the transport answers with an error (R166). -/
theorem runCalls_of_firstError {calls : List Call} {frames : List (List Byte)} {s : State} {k : Nat} {e : TErr}
    {last : List Byte} {more : List (Option Answer)} (hf : HaveFrames s.params calls frames)
    (hlast : frames[k]? = some last) (ha : s.answers = List.replicate k (some .ok) ++ some (.err e) :: more)
    (he : isTerr s.params e = true) :
    ∃ t, OksWritten (frames.take k) s t ∧ t.answers = some (.err e) :: more ∧ runCalls calls s = failAt last e t := by
  obtain ⟨hlt, rfl⟩ := List.getElem?_eq_some_iff.mp hlast
  have hlen : (frames.take k).length = k := List.length_take_of_le (Nat.le_of_lt hlt)
  obtain ⟨t, ht, hrun⟩ := runCalls_append_of_oks (calls.drop k) (hf.take k) (hlen.symm ▸ ha)
  have hanswers : t.answers = some (.err e) :: more := by
    rw [ht.answers, hlen, ha]
    exact List.drop_left' List.length_replicate
  have hdrop := hf.drop k
  rw [List.drop_eq_getElem_cons hlt] at hdrop
  obtain ⟨c, cs, hcs, hc, -⟩ := haveFrames_cons_right.mp hdrop
  have hn : nextAnswer t = some (.err e) := by
    rw [nextAnswer_cons hanswers, ht.params]
    exact turnOf_eq_err.mpr ⟨rfl, he⟩
  rw [List.take_append_drop, hcs] at hrun
  exact ⟨t, ht, hanswers, hrun.trans (runCalls_cons_answered_err cs (ht.params ▸ hc) hn)⟩

/-- Everything a run of calls that pass their checks can do: it makes all its writes and responds `Ok`, or it stops
at one that is not answered, or fails. -/
theorem runCalls_cases {calls : List Call} {frames : List (List Byte)} {s : State}
    (hf : HaveFrames s.params calls frames) :
    (∃ t, OksWritten frames s t ∧ runCalls calls s = respond .ok t) ∨
    ∃ n frame t, frames[n]? = some frame ∧ OksWritten (frames.take n) s t ∧
      (runCalls calls s = useAnswer (buildFrame frame t) ∨ ∃ e, runCalls calls s = failAt frame e t) := by
  induction frames generalizing calls s with
  | nil =>
    cases haveFrames_nil_right.mp hf
    exact .inl ⟨s, .nil s, rfl⟩
  | cons frame frames ih =>
    obtain ⟨c, cs, rfl, hc, hcs⟩ := haveFrames_cons_right.mp hf
    have hl := callFrame_length hc
    rcases settle_cases (runCalls cs) (buildFrame frame s) with ⟨-, hs⟩ | ⟨hn, -⟩ | ⟨e, hn, -⟩
    · exact .inr ⟨0, frame, s, rfl, .nil s, .inl ((runCalls_cons_ok hc).trans hs)⟩
    · rw [runCalls_cons_answered_ok hc hn]
      rcases ih (s := afterOk (buildFrame frame s)) hcs with ⟨t, ht, hrun⟩ | ⟨n, next, t, hnext, ht, hrun⟩
      · exact .inl ⟨t, ht.cons hl, hrun⟩
      · exact .inr ⟨n + 1, next, t, hnext, ht.cons hl, hrun⟩
    · exact .inr ⟨0, frame, s, rfl, .nil s, .inr ⟨e, runCalls_cons_answered_err cs hc hn⟩⟩

end Sys2Proof.Machine
end


section
/-! PROOFS. CLEAR: its 26 frames, and what they do to the controller row by row (42_composed R164 to R171, R198,
43_controller_pointer R189 to R192). -/

namespace Sys2Proof.Machine

/-! ### The frames of `clear()` (R165) -/

theorem haveFrames_clearPage (p : Params) {page : Nat} (h : page < 8) :
    HaveFrames p (clearPageCalls page) (clearPageFrames page) := by
  have hbyte : ∀ page < 8, pageStartByte page = BitVec.ofNat 8 (0xB0 + page) := by decide
  have hpage := hbyte page h ▸ callFrame_setPage p h
  have hcolumn := callFrame_setColumn p (column := 0) (by decide)
  have hdata : callFrame p (.sendData (zeros maxTransactionSize)) = .ok (0x40#8 :: zeros maxTransactionSize) :=
    frameOf_eq_ok.mpr ⟨Nat.le_of_eq List.length_replicate, rfl⟩
  change [_, _, _] = [_, _, _]
  rw [hpage, hcolumn, hdata]
  rfl

theorem haveFrames_clearPages (p : Params) {pages : List Nat} (h : ∀ page ∈ pages, page < 8) :
    HaveFrames p (pages.flatMap clearPageCalls) (pages.flatMap clearPageFrames) := by
  induction pages with
  | nil => rfl
  | cons page pages ih =>
    obtain ⟨hpage, hpages⟩ := List.forall_mem_cons.mp h
    exact (haveFrames_clearPage p hpage).append (ih hpages)

/-- The 26 calls of `clear()` have the 26 frames, under all parameters. -/
theorem haveFrames_clear (p : Params) : HaveFrames p clearCalls clearFrames :=
  have hloop : HaveFrames p ((List.range pageCount).flatMap clearPageCalls)
      ((List.range pageCount).flatMap clearPageFrames) := haveFrames_clearPages p fun _ => List.mem_range.mp
  hloop.append rfl

theorem clearFrames_length : clearFrames.length = 26 := by decide

/-- The frames in groups of three; the two calls behind the loop begin a ninth group, on page 0. -/
theorem clearFrames_pageStart : ∀ n < 9, clearFrames[3 * n]? = some [0x00#8, 0b10110#5 ++ BitVec.ofNat 3 n] := by
  decide

theorem clearFrames_column : ∀ n < 9, clearFrames[3 * n + 1]? = some [0x00#8, 0x00#8, 0x10#8] := by decide

theorem clearFrames_data : ∀ n < 8, clearFrames[3 * n + 2]? = some (0x40#8 :: List.replicate 128 0x00#8) := by decide

/-- CLEAR is latched, and no call is made yet (R24, R80). -/
abbrev clearBegun (r : ReqArgs) (s : State) : State := accept 0x6#4 (reqFields r) s

/-- In `IDLE` CLEAR is latched and its calls are made. -/
theorem exec_clear_idle {s : State} (r : ReqArgs) (hp : s.phase = .idle) :
    exec (.clear r) s = .next (runCalls clearCalls (clearBegun r s)) := by
  have hf := callFrame_setPage s.params (page := 0) (by decide)
  rw [clearCalls_cons, runCalls_cons_ok (s := clearBegun r s) hf]
  exact request_ok hp hf

/-! ### The effect of each frame -/

section

variable {p : Params} {sh : Shadow} {page : BitVec 3} {d : List Byte}

/-- A whole row of DATA fills the row, whatever becomes of the pointer (R189, R192). -/
theorem applyData_row_ram (h : landing p sh = some (page, 0#7)) (hd : d.length = 128) :
    (applyData p d sh).ram = memWriteRun sh.ram (cellAddr page 0) d := by
  have hfits : 0 + d.length ≤ columnCount := by rw [hd]; decide
  by_cases hw : WrapsAtRowEnd p sh
  · rw [applyData_wraps h hw]
    exact memWriteWrapped_eq_memWriteRun _ _ hfits
  · have hne : d ≠ [] := List.ne_nil_of_length_pos (by omega)
    have htake : d.take (columnCount - 0) = d := List.take_of_length_le (Nat.le_of_eq hd)
    rw [applyData_rowEnd h hw hne (by rw [hd]; decide)]
    change (if 0 + d.length > columnCount then [] else memWriteRun _ _ (d.take (columnCount - 0))) = _
    rw [if_neg (Nat.not_lt.mpr hfits), htake]
    rfl

/-- A whole row of DATA whose write fails makes the row unknown (R190 a). -/
theorem shadowFail_row_ram (h : landing p sh = some (page, 0#7)) (hd : d.length = 128) :
    (shadowFail p (0x40#8 :: d) sh).ram = memForgetRun sh.ram (cellAddr page 0) 128 := by
  change failedDataRam p d sh = _
  have hne : d ≠ [] := List.ne_nil_of_length_pos (by omega)
  simp [failedDataRam, h, hd, hne, columnCount]

end

theorem shadowApply_pageStart (p : Params) (page : BitVec 3) (sh : Shadow) :
    shadowApply p [0x00#8, 0b10110#5 ++ page] sh = shadowPageStart p page sh :=
  applyCommand_of_k1 sh (classify_pageStart p page)

/-- The bytes of column 0 are a payload of class K2. -/
theorem classify_columnZero (p : Params) : classify p [0x00#8, 0x10#8] = .k2 0#7 := classify_column p 0#3 0#4

theorem shadowApply_columnZero (p : Params) (sh : Shadow) :
    shadowApply p [0x00#8, 0x00#8, 0x10#8] sh = shadowColumn 0#7 sh :=
  applyCommand_of_k2 sh (classify_columnZero p)

/-! ### The controller after the first frames of `clear()` -/

/-- The rows of the first `n` pages are zero; the other cells and the mode are those of `sh` (R198). -/
structure RowsCleared (sh : Shadow) (n : Nat) (t : Shadow) : Prop where
  mode : t.mode = sh.mode
  ram : ∀ a, memRead t.ram a = if a < 128 * n then some 0x00#8 else memRead sh.ram a

/-- The controller once the first `k` frames of `clear()` are answered `Ok`. -/
def clearShadow (p : Params) (sh : Shadow) (k : Nat) : Shadow := applyFrames p (clearFrames.take k) sh

section

variable {p : Params} {sh : Shadow} {n : Nat}

theorem clearShadow_succ {k : Nat} {frame : List Byte} (h : clearFrames[k]? = some frame) :
    clearShadow p sh (k + 1) = shadowApply p frame (clearShadow p sh k) := by
  simp only [clearShadow, applyFrames, List.take_add_one, h, Option.toList_some, List.foldl_append, List.foldl_cons,
    List.foldl_nil]

theorem clearShadow_pageStart (hn : n < 9) :
    clearShadow p sh (3 * n + 1) = shadowPageStart p (BitVec.ofNat 3 n) (clearShadow p sh (3 * n)) := by
  rw [clearShadow_succ (clearFrames_pageStart n hn), shadowApply_pageStart]

theorem clearShadow_column (hn : n < 9) :
    clearShadow p sh (3 * n + 2) = shadowColumn 0#7 (clearShadow p sh (3 * n + 1)) := by
  rw [clearShadow_succ (clearFrames_column n hn), shadowApply_columnZero]

/-- The address of the first cell of a row (R53). -/
theorem cellAddr_ofNat_zero (hn : n < 8) : cellAddr (BitVec.ofNat 3 n) 0 = 128 * n := by
  have hmod : n % 8 = n := Nat.mod_eq_of_lt hn
  simp only [cellAddr, columnCount, BitVec.toNat_ofNat, Nat.reducePow, hmod]
  omega

/-- The first two calls of a group set the pointer to the beginning of the row and store nothing. -/
theorem RowsCleared.afterPointer (hn : n < 9) (h : RowsCleared sh n (clearShadow p sh (3 * n))) :
    RowsCleared sh n (clearShadow p sh (3 * n + 1)) ∧ RowsCleared sh n (clearShadow p sh (3 * n + 2)) ∧
      (clearShadow p sh (3 * n + 2)).page = some (BitVec.ofNat 3 n) ∧
      (clearShadow p sh (3 * n + 2)).col = some 0#7 := by
  rw [clearShadow_column hn, clearShadow_pageStart hn]
  exact ⟨⟨h.mode, h.ram⟩, ⟨h.mode, h.ram⟩, rfl, rfl⟩

variable (hm : p.dataNeedsPageMode = false ∨ sh.mode = some .page)
include hm

/-- The DATA of a group then lands at the beginning of the row. -/
theorem landing_clearShadow (hn : n < 9) (h : RowsCleared sh n (clearShadow p sh (3 * n))) :
    landing p (clearShadow p sh (3 * n + 2)) = some (BitVec.ofNat 3 n, 0#7) := by
  obtain ⟨-, hrows, hpage, hcol⟩ := h.afterPointer hn
  exact landing_eq_some.mpr ⟨hpage, hcol, hrows.mode ▸ hm⟩

/-- After `n` groups of three frames the rows of `n` pages are zero (R164, R192). -/
theorem rowsCleared_clearShadow (hn : n ≤ 8) : RowsCleared sh n (clearShadow p sh (3 * n)) := by
  induction n with
  | zero => exact ⟨rfl, fun a => (if_neg (Nat.not_lt_zero a)).symm⟩
  | succ n ih =>
    have hprev := ih (Nat.le_of_succ_le hn)
    obtain ⟨-, hrows, -, -⟩ := hprev.afterPointer (by omega)
    have hland := landing_clearShadow hm (by omega) hprev
    have hdata : clearShadow p sh (3 * (n + 1)) =
        applyData p (List.replicate 128 0x00#8) (clearShadow p sh (3 * n + 2)) :=
      clearShadow_succ (clearFrames_data n hn)
    refine ⟨?_, fun a => ?_⟩
    · rw [hdata, applyData_mode, hrows.mode]
    · rw [hdata, applyData_row_ram hland List.length_replicate, memRead_memWriteRun, cellAddr_ofNat_zero hn,
        hrows.ram, List.length_replicate]
      by_cases hrow : 128 * n ≤ a ∧ a < 128 * n + 128
      · rw [if_pos hrow, if_pos (by omega), List.getElem?_replicate, if_pos (by omega)]
      · have hbelow : a < 128 * n ↔ a < 128 * (n + 1) := by omega
        rw [if_neg hrow]
        simp only [hbelow]

/-- What the failure of frame number `k` leaves of the RAM (R171, R190): the rows before are zero, the row of a DATA
write is unknown. -/
theorem memRead_shadowFail_clearShadow {k : Nat} {frame : List Byte} (hk : clearFrames[k]? = some frame) (a : Nat) :
    memRead (shadowFail p frame (clearShadow p sh k)).ram a =
      if a < 128 * (k / 3) then some 0x00#8
      else if k % 3 = 2 ∧ a < 128 * (k / 3) + 128 then none
      else memRead sh.ram a := by
  have hlt : k < 26 := clearFrames_length ▸ (List.getElem?_eq_some_iff.mp hk).1
  obtain ⟨n, j, hj, rfl⟩ : ∃ n j, j < 3 ∧ k = 3 * n + j := ⟨k / 3, k % 3, by omega, by omega⟩
  have hn : n < 9 := by omega
  have hdiv : (3 * n + j) / 3 = n := by omega
  have hmod : (3 * n + j) % 3 = j := by omega
  have hrows := rowsCleared_clearShadow hm (Nat.le_of_lt_succ hn)
  obtain ⟨hrows1, hrows2, -, -⟩ := hrows.afterPointer hn
  rw [hdiv, hmod]
  match j, hj with
  | 0, _ =>
    cases Option.some.inj ((clearFrames_pageStart n hn).symm.trans hk)
    rw [shadowFail_command (by rw [classify_pageStart]; nofun)]
    exact (hrows.ram a).trans (by simp)
  | 1, _ =>
    cases Option.some.inj ((clearFrames_column n hn).symm.trans hk)
    rw [shadowFail_command (by rw [classify_columnZero]; nofun)]
    exact (hrows1.ram a).trans (by simp)
  | 2, _ =>
    have hn8 : n < 8 := by omega
    cases Option.some.inj ((clearFrames_data n hn8).symm.trans hk)
    rw [shadowFail_row_ram (landing_clearShadow hm hn hrows) List.length_replicate, memRead_memForgetRun,
      cellAddr_ofNat_zero hn8, hrows2.ram]
    by_cases hdone : a < 128 * n
    · rw [if_neg (by omega), if_pos hdone, if_pos hdone]
    rw [if_neg hdone, if_neg hdone]
    by_cases hrow : a < 128 * n + 128
    · rw [if_pos ⟨Nat.not_lt.mp hdone, hrow⟩, if_pos ⟨rfl, hrow⟩]
    · rw [if_neg fun h => hrow h.2, if_neg fun h => hrow h.2]

end

/-! ### The statements -/

/-- Settles O27: the run comes to its end, and behind the loop the pointer is set to page 0, column 0. -/
theorem clearWritesAllFrames : Obligations.ClearWritesAllFrames := by
  intro s r more hp ha hm
  obtain ⟨t, ht, hrun⟩ := runCalls_append_of_oks (s := clearBegun r s) [] (haveFrames_clear s.params)
    (clearFrames_length ▸ ha)
  rw [List.append_nil, runCalls_nil] at hrun
  have hkeep : CallsKeep (clearBegun r s) (respond .ok t) := hrun ▸ callsKeep_runCalls clearCalls (clearBegun r s)
  have hshadow : t.shadow = clearShadow s.params s.shadow 26 := ht.shadow
  have hanswers : t.answers = more := by
    rw [ht.answers, clearFrames_length]
    exact ha ▸ List.drop_left' List.length_replicate
  obtain ⟨-, hrows, hpage, hcol⟩ := (rowsCleared_clearShadow hm (Nat.le_refl 8)).afterPointer (by decide)
  rw [← hshadow] at hrows hpage hcol
  exact ⟨respond .ok t, by rw [exec_clear_idle r hp, hrun], ht.log, rfl, rfl, ht.seq, ht.terr,
    hpage, hcol, hrows.mode, fun a hlt => (hrows.ram a).trans (if_pos hlt), hanswers,
    hkeep.addrSel, hkeep.params, hkeep.hostIn, hkeep.bus, hkeep.rx, hkeep.resetIn⟩

/-- Settles O28: the run comes to the call whose write fails, and ends there. -/
theorem clearAbortsAtTheFirstError : Obligations.ClearAbortsAtTheFirstError := by
  intro s r k e more hp hk ha he hm
  obtain ⟨last, hlast⟩ : ∃ last, clearFrames[k]? = some last :=
    ⟨_, List.getElem?_eq_getElem (clearFrames_length.symm ▸ hk)⟩
  obtain ⟨t, ht, hanswers, hrun⟩ :=
    runCalls_of_firstError (s := clearBegun r s) (haveFrames_clear s.params) hlast ha he
  have hkeep : CallsKeep (clearBegun r s) (failAt last e t) := hrun ▸ callsKeep_runCalls clearCalls (clearBegun r s)
  have hlog : (failAt last e t).log = s.log ++
      (clearFrames.take k).map (fun f => { addr := busAddr s.addrSel, bytes := f, answer := .ok }) ++
      [{ addr := busAddr s.addrSel, bytes := last, answer := .err e }] := by
    rw [failAt_log, ht.log, ht.addrSel]
    rfl
  have hshadow : (failAt last e t).shadow = shadowFail s.params last (clearShadow s.params s.shadow k) := by
    rw [failAt_shadow, ht.params, ht.shadow]
    rfl
  have hseq : (failAt last e t).seq.toNat = k := by
    have hlen : (clearFrames.take k).length = k := List.length_take_of_le (by rw [clearFrames_length]; omega)
    rw [failAt_seq, ht.seq, accept_seq, hlen, BitVec.zero_add, BitVec.toNat_ofNat]
    omega
  exact ⟨failAt last e t, last, by rw [exec_clear_idle r hp, hrun], hlast, hlog, rfl, rfl, rfl, hseq, rfl, rfl, rfl,
    fun a => hshadow ▸ memRead_shadowFail_clearShadow hm hlast a, congrArg List.tail hanswers,
    hkeep.addrSel, hkeep.params, hkeep.hostIn, hkeep.bus, hkeep.rx, hkeep.resetIn⟩

/-- Settles O29: the frames of the writes that were answered are the first ones, and the run ends behind the last or
at one that failed. -/
theorem clearWritesAPrefixOfItsFrames : Obligations.ClearWritesAPrefixOfItsFrames := by
  intro s r hp
  rw [exec_clear_idle r hp]
  rcases runCalls_cases (s := clearBegun r s) (haveFrames_clear s.params) with
    ⟨t, ht, hrun⟩ | ⟨n, frame, t, hframe, ht, hrun⟩
  · refine ⟨respond .ok t, 26, by rw [hrun], Nat.le_refl 26, ?_, fun _ => .inl ⟨rfl, rfl⟩⟩
    rw [List.take_of_length_le (Nat.le_of_eq clearFrames_length)]
    exact ht.bytes
  have hlt : n < 26 := clearFrames_length ▸ (List.getElem?_eq_some_iff.mp hframe).1
  rcases hrun with hrun | ⟨e, hrun⟩
  · exact ⟨useAnswer (buildFrame frame t), n, by rw [hrun], Nat.le_of_lt hlt, ht.bytes,
      fun hidle => nomatch hidle.symm.trans ht.phase⟩
  · refine ⟨failAt frame e t, n + 1, by rw [hrun], hlt, ?_, fun _ => .inr rfl⟩
    rw [failAt_log, List.map_append, ht.bytes, List.take_add_one, hframe, List.append_assoc]
    rfl

end Sys2Proof.Machine
end


section
/-! PROOFS. COMMAND payloads and a control byte alone (43_controller_pointer R182 to R187, R193 to R196). -/

namespace Sys2Proof.Machine

section

variable (p : Params) (sh : Shadow)

/-- A frame with control byte 0x00 has the effect of its COMMAND payload (R181). -/
theorem shadowApply_command (c : List Byte) : shadowApply p (0x00#8 :: c) sh = applyCommand p c sh := rfl

/-- A pair whose second byte is 0x18 to 0x1F is of no class (R182). -/
theorem classify_highPair (high : BitVec 3) (low : BitVec 4) :
    classify p [0x0#4 ++ low, 0b00011#5 ++ high] = .k6 := by
  have hhigh : ∀ high high' : BitVec 3, 0b00011#5 ++ high ≠ 0b00010#5 ++ high' := by decide
  have hlen : ∀ c : List Byte, c.length ≠ 2 → [0x0#4 ++ low, 0b00011#5 ++ high] ≠ c := by
    rintro c hc rfl
    exact hc rfl
  rcases classify_cases p [0x0#4 ++ low, 0b00011#5 ++ high] with
    h | ⟨_, h⟩ | ⟨high', low', h⟩ | ⟨_, _, _, h⟩ | h | h | h | h
  · exact absurd h (hlen _ (by decide))
  · exact absurd h (hlen _ (by simp))
  · exact absurd (List.cons.inj (List.cons.inj h).2).1 (hhigh high high')
  · exact absurd h (hlen _ (by simp))
  · exact absurd h (hlen _ (by decide))
  · exact absurd h (hlen _ (by simp))
  · exact absurd h (hlen _ (by decide))
  · exact h

/-- The entire-on bytes are of class K4, which has no effect (R193). -/
theorem shadowApply_entireOn {b : Byte} (hb : b = entireOnResume ∨ b = p.entireOnIgnoreRam)
    (hne : b &&& 0xF8#8 ≠ 0xB0#8) : shadowApply p [0x00#8, b] sh = sh :=
  applyCommand_of_k4 sh (classify_entireOn p hb hne)

end

/-- Settles O43: each payload is of the class of its row. -/
theorem pointerPayloadEffects : Obligations.PointerPayloadEffects := fun p sh =>
  ⟨fun page => shadowApply_pageStart p page sh,
    fun high low => applyCommand_of_k2 sh (classify_column p high low),
    classify_highPair p,
    fun page high low => applyCommand_of_k3 sh (classify_pageMode p page high low),
    shadowApply_entireOn p sh (.inl rfl) (by decide),
    shadowApply_entireOn p sh (.inr rfl)⟩

/-- With the default effect a payload of class K6 makes everything unknown (R195). -/
theorem applyCommand_of_k6 {p : Params} {c : List Byte} (hu : p.otherCmdEffect = .unknown)
    (hk : classify p c = .k6) (sh : Shadow) : applyCommand p c sh = unknownShadow := by
  simp only [applyCommand, hk, shadowOther, hu, shadowForget]

/-- Settles O44: the payloads of the classes K0 to K5 are excluded, so the payload is of class K6. -/
theorem otherPayloadsForget : Obligations.OtherPayloadsForget := by
  intro p sh hu hram
  refine ⟨rfl, applyCommand_of_k5 sh (classify_initSeq p), fun c h0 h1 h2 h3 h4 h4' h5 => ?_⟩
  refine applyCommand_of_k6 hu ?_ sh
  rcases classify_cases p c with
    h | ⟨page, h⟩ | ⟨high, low, h⟩ | ⟨page, high, low, h⟩ | h | h | h | h
  · exact absurd h h0
  · exact absurd h (h1 page)
  · exact absurd h (h2 high low)
  · exact absurd h (h3 page high low)
  · exact absurd h h4
  · exact absurd (hram ▸ h) h4'
  · exact absurd h h5
  · exact h

/-- A byte alone that is neither a page start nor an entire-on byte makes everything unknown. -/
theorem shadowApply_otherByte {p : Params} (hu : p.otherCmdEffect = .unknown) (hram : p.entireOnIgnoreRam = 0xA5#8)
    {b : Byte} (hpage : ∀ page : BitVec 3, b ≠ 0b10110#5 ++ page) (h4 : b ≠ 0xA4#8) (h5 : b ≠ 0xA5#8)
    (sh : Shadow) : shadowApply p [0x00#8, b] sh = unknownShadow := by
  obtain ⟨-, -, hother⟩ := otherPayloadsForget p sh hu hram
  exact hother [b] (by simp) (by simpa using hpage) (by simp)
    (fun _ _ _ h => absurd (congrArg List.length h) (by simp)) (by simpa using h4) (by simpa using h5)
    (by simp [initSeq])

/-- Settles O45: a nibble byte is neither a page start nor an entire-on byte. -/
theorem loneNibbleForgets : Obligations.LoneNibbleForgets := by
  intro p sh low high hu hram
  have hlow : ∀ low : BitVec 4, (∀ page : BitVec 3, 0x0#4 ++ low ≠ 0b10110#5 ++ page) ∧
      0x0#4 ++ low ≠ 0xA4#8 ∧ 0x0#4 ++ low ≠ 0xA5#8 := by decide
  have hhigh : ∀ high : BitVec 4, (∀ page : BitVec 3, 0x1#4 ++ high ≠ 0b10110#5 ++ page) ∧
      0x1#4 ++ high ≠ 0xA4#8 ∧ 0x1#4 ++ high ≠ 0xA5#8 := by decide
  obtain ⟨hl, hl4, hl5⟩ := hlow low
  obtain ⟨hh, hh4, hh5⟩ := hhigh high
  exact ⟨shadowApply_otherByte hu hram hl hl4 hl5 sh, shadowApply_otherByte hu hram hh hh4 hh5 sh⟩

/-- Settles O50: an empty COMMAND payload is of class K0, and an empty DATA payload lands nowhere. -/
theorem emptyPayloadChangesNothing : Obligations.EmptyPayloadChangesNothing := fun _ _ => ⟨rfl, rfl⟩

end Sys2Proof.Machine
end


section
/-! PROOFS. DATA payloads: where the bytes land, and what becomes of the pointer (43_controller_pointer R189, R191,
R192). -/

namespace Sys2Proof.Machine

/-! ### The cells of a run of bytes -/

section

variable {m : Memory} {d : List Byte}

theorem memRead_memWriteRun_inside (m : Memory) (a : Nat) {i : Nat} (hi : i < d.length) :
    memRead (memWriteRun m a d) (a + i) = d[i]? := by
  rw [memRead_memWriteRun, if_pos ⟨Nat.le_add_right a i, Nat.add_lt_add_left hi a⟩, Nat.add_sub_cancel_left]

theorem memRead_memWriteRun_outside {a x : Nat} (hx : x < a ∨ a + d.length ≤ x) :
    memRead (memWriteRun m a d) x = memRead m x := by
  rw [memRead_memWriteRun, if_neg (by omega)]

/-- A run that wraps leaves the cells where none of its bytes lands (R192). -/
theorem memRead_memWriteWrapped_outside {page : BitVec 3} {c x : Nat}
    (hx : ∀ i < d.length, x ≠ cellAddr page ((c + i) % columnCount)) :
    memRead (memWriteWrapped m page c d) x = memRead m x := by
  induction d generalizing m c with
  | nil => rfl
  | cons v d ih =>
    have htail : ∀ i < d.length, x ≠ cellAddr page ((c + 1 + i) % columnCount) := fun i hi => by
      rw [Nat.add_right_comm]
      exact hx (i + 1) (Nat.succ_lt_succ hi)
    rw [memWriteWrapped, ih htail, memRead_memWrite, if_neg]
    exact hx 0 (Nat.zero_lt_succ _)

/-- A run of at most one row that wraps lands on as many cells as it has bytes (R192). -/
theorem memRead_memWriteWrapped_inside (page : BitVec 3) {c i : Nat} (hi : i < d.length)
    (hd : d.length ≤ columnCount) :
    memRead (memWriteWrapped m page c d) (cellAddr page ((c + i) % columnCount)) = d[i]? := by
  induction d generalizing m c i with
  | nil => exact absurd hi (Nat.not_lt_zero i)
  | cons v d ih =>
    rw [List.length_cons] at hi hd
    cases i with
    | zero =>
      have hfresh : ∀ j < d.length,
          cellAddr page ((c + 0) % columnCount) ≠ cellAddr page ((c + 1 + j) % columnCount) := fun j hj => by
        simp only [cellAddr, columnCount] at *
        omega
      rw [memWriteWrapped, memRead_memWriteWrapped_outside hfresh, memRead_memWrite]
      exact if_pos rfl
    | succ i =>
      have hsum : c + (i + 1) = c + 1 + i := by omega
      rw [memWriteWrapped, hsum]
      exact ih (by omega) (by omega)

end

/-! ### A payload at a pointer that names a cell -/

section

variable {p : Params} {sh : Shadow} {page : BitVec 3} {col : BitVec 7} {d : List Byte}

/-- A frame with control byte 0x40 has the effect of its DATA payload (R181). -/
theorem shadowApply_data (p : Params) (d : List Byte) (sh : Shadow) :
    shadowApply p (0x40#8 :: d) sh = applyData p d sh := rfl

/-- A payload that does not pass the end of its row lands in it byte after byte, whatever becomes of the pointer
(R189, R192). -/
theorem applyData_ram_of_fits (h : pointsAt p sh page col) (hc : col.toNat + d.length ≤ columnCount) :
    (applyData p d sh).ram = memWriteRun sh.ram (cellAddr page col.toNat) d := by
  have hland := landing_eq_some.mpr h
  by_cases hw : WrapsAtRowEnd p sh
  · rw [applyData_wraps hland hw]
    exact memWriteWrapped_eq_memWriteRun _ _ hc
  by_cases hd : d = []
  · subst hd; rfl
  by_cases hlt : col.toNat + d.length < columnCount
  · rw [applyData_inRow hland hd hlt]
  · rw [applyData_rowEnd hland hw hd (Nat.le_of_not_lt hlt)]
    dsimp only
    rw [if_neg (Nat.not_lt.mpr hc), List.take_of_length_le (Nat.le_sub_of_add_le' hc)]

theorem memRead_applyData_inside (h : pointsAt p sh page col) (hc : col.toNat + d.length ≤ columnCount) {i : Nat}
    (hi : i < d.length) : memRead (applyData p d sh).ram (page.toNat * 128 + (col.toNat + i)) = d[i]? := by
  rw [applyData_ram_of_fits h hc, ← Nat.add_assoc]
  exact memRead_memWriteRun_inside _ _ hi

theorem memRead_applyData_outside (h : pointsAt p sh page col) (hc : col.toNat + d.length ≤ columnCount) {a : Nat}
    (ha : a < page.toNat * 128 + col.toNat ∨ page.toNat * 128 + col.toNat + d.length ≤ a) :
    memRead (applyData p d sh).ram a = memRead sh.ram a := by
  rw [applyData_ram_of_fits h hc]
  exact memRead_memWriteRun_outside ha

/-- Short of the row's end the column advances by the length (R189). -/
theorem applyData_pointer_inRow (h : pointsAt p sh page col) (hc : col.toNat + d.length < columnCount) :
    (applyData p d sh).page = some page ∧ (applyData p d sh).col = some (col + BitVec.ofNat 7 d.length) := by
  have hland := landing_eq_some.mpr h
  obtain ⟨hpage, hcol, -⟩ := h
  by_cases hd : d = []
  · subst hd
    exact ⟨hpage, hcol.trans (congrArg some (BitVec.add_zero col).symm)⟩
  · rw [applyData_inRow hland hd hc]
    exact ⟨hpage, by simp [BitVec.ofNat_add]⟩

/-- A payload that reaches the row's end is not empty. -/
theorem ne_nil_of_rowEnd (hc : columnCount ≤ col.toNat + d.length) : d ≠ [] := by
  rintro rfl
  exact absurd col.isLt (Nat.not_lt.mpr hc)

/-- At the row's end the pointer that does not wrap is lost (R192). -/
theorem applyData_pointer_rowEnd (h : pointsAt p sh page col) (hw : ¬ WrapsAtRowEnd p sh)
    (hc : columnCount ≤ col.toNat + d.length) :
    (applyData p d sh).page = none ∧ (applyData p d sh).col = none := by
  rw [applyData_rowEnd (landing_eq_some.mpr h) hw (ne_nil_of_rowEnd hc) hc]
  exact ⟨rfl, rfl⟩

/-- Past the row's end, with the pointer lost, no cell is known (R192). -/
theorem applyData_ram_pastRowEnd (h : pointsAt p sh page col) (hw : ¬ WrapsAtRowEnd p sh)
    (hc : columnCount < col.toNat + d.length) : (applyData p d sh).ram = [] := by
  have hend := Nat.le_of_lt hc
  rw [applyData_rowEnd (landing_eq_some.mpr h) hw (ne_nil_of_rowEnd hend) hend]
  exact if_pos hc

/-- Nothing lands exactly where the pointer names no cell (R189, R191). -/
theorem landing_eq_none : landing p sh = none ↔ pointsNowhere p sh := by
  unfold landing pointsNowhere
  cases sh.page <;> cases sh.col <;> simp

end

/-! ### The statements -/

/-- Settles O46: the payload fits in its row, and ends before the row does. -/
theorem dataLandsInTheRow : Obligations.DataLandsInTheRow := by
  intro p sh page col d h hc
  have hlt : col.toNat + d.length < columnCount := Nat.lt_succ_of_le hc
  have hle := Nat.le_of_lt hlt
  rw [shadowApply_data]
  obtain ⟨hpage, hcol⟩ := applyData_pointer_inRow h hlt
  exact ⟨hpage, hcol, applyData_mode p d sh, fun _ => memRead_applyData_inside h hle,
    fun _ => memRead_applyData_outside h hle⟩

/-- Settles O47: there is no cell for the payload to land on. -/
theorem dataAtUnknownPointerForgets : Obligations.DataAtUnknownPointerForgets := fun _ _ _ hd h =>
  applyData_nowhere (landing_eq_none.mpr h) hd

/-- Settles O48: under these parameters the pointer does not wrap, and the length decides about the cells. -/
theorem rowEndForgetsThePointer : Obligations.RowEndForgetsThePointer := by
  intro p sh page col d h hrule hc
  have hw : ¬ WrapsAtRowEnd p sh := by
    rintro ⟨hwrap, hmode⟩
    rcases hrule with hu | hother
    · rw [hwrap] at hu
      cases hu
    · exact hother hmode
  rw [shadowApply_data]
  obtain ⟨hpage, hcol⟩ := applyData_pointer_rowEnd h hw hc
  refine ⟨hpage, hcol, applyData_mode p d sh, fun hend => ?_, fun hpast a => ?_⟩
  · have hle := Nat.le_of_eq hend
    exact ⟨fun _ => memRead_applyData_inside h hle, fun _ ha => memRead_applyData_outside h hle (by omega)⟩
  · rw [applyData_ram_pastRowEnd h hw hpast, memRead_nil]

/-- Settles O49: the run wraps on its page, and no two of its bytes land on one cell. -/
theorem rowEndWrapsInPageMode : Obligations.RowEndWrapsInPageMode := by
  intro p sh page col d hrule hmode hpage hcol _ hd
  rw [shadowApply_data, applyData_wraps (landing_eq_some.mpr ⟨hpage, hcol, .inr hmode⟩) ⟨hrule, hmode⟩]
  exact ⟨hpage, rfl, hmode, fun _ hi => memRead_memWriteWrapped_inside page hi hd,
    fun _ => memRead_memWriteWrapped_outside⟩

/-- Settles O51, byte by byte of the first part. -/
theorem dataSplitsAnywhere : Obligations.DataSplitsAnywhere := by
  intro p sh d e
  induction d generalizing sh with
  | nil => rfl
  | cons v d ih => rw [List.cons_append, applyData_cons p v (d ++ e), applyData_cons p v d, ih]

end Sys2Proof.Machine
end


section
/-! PROOFS. A write that fails: what the controller forgets, and how the request ends (43_controller_pointer R190,
60_exceptions R213, R218 to R220, R231). -/

namespace Sys2Proof.Machine

/-! ### The RAM after a failed write (R190) -/

section

variable {p : Params} {sh : Shadow} {page : BitVec 3} {col : BitVec 7} {d : List Byte}

theorem failedDataRam_fits (h : pointsAt p sh page col) (hd : d ≠ []) (hc : col.toNat + d.length ≤ columnCount) :
    failedDataRam p d sh = memForgetRun sh.ram (cellAddr page col.toNat) d.length := by
  simp only [failedDataRam, List.isEmpty_iff, hd, landing_eq_some.mpr h, hc, if_true, if_false]

theorem failedDataRam_pastRowEnd (h : pointsAt p sh page col) (hd : d ≠ [])
    (hc : columnCount < col.toNat + d.length) : failedDataRam p d sh = [] := by
  simp only [failedDataRam, List.isEmpty_iff, hd, landing_eq_some.mpr h, Nat.not_le.mpr hc, if_false]

theorem failedDataRam_nowhere (h : pointsNowhere p sh) (hd : d ≠ []) : failedDataRam p d sh = [] := by
  simp only [failedDataRam, List.isEmpty_iff, hd, landing_eq_none.mpr h, if_false]

/-- The RAM after a failed DATA frame is that of its payload. -/
theorem shadowFail_data_ram (p : Params) (d : List Byte) (sh : Shadow) :
    (shadowFail p (0x40#8 :: d) sh).ram = failedDataRam p d sh := rfl

/-- A failed COMMAND frame of class K6 leaves no cell known (R190 c). -/
theorem shadowFail_k6_ram {c : List Byte} (hk : classify p c = .k6) (sh : Shadow) :
    (shadowFail p (0x00#8 :: c) sh).ram = [] := if_pos hk

end

/-- Settles O52, by the place of a DATA payload and by the class of a COMMAND payload. -/
theorem failedWriteForgets : Obligations.FailedWriteForgets := by
  refine fun p sh => ⟨fun _ => ⟨rfl, rfl, rfl⟩, fun page col d h hd => ⟨fun hc a => ?_, fun hc a => ?_⟩,
    fun d hd h a => ?_, rfl, fun c => ⟨fun hk => ?_, fun hk a => ?_⟩⟩
  · rw [shadowFail_data_ram, failedDataRam_fits h hd hc]
    exact memRead_memForgetRun _ _ _ _
  · rw [shadowFail_data_ram, failedDataRam_pastRowEnd h hd hc, memRead_nil]
  · rw [shadowFail_data_ram, failedDataRam_nowhere h hd, memRead_nil]
  · rw [shadowFail_command hk]
  · rw [shadowFail_k6_ram hk, memRead_nil]

/-! ### The request whose first write fails -/

@[simp] theorem raise_log (x : Condition) (s : State) : (raise x s).log = s.log := by cases x <;> rfl

/-- A pending write that is answered with an error ends the request with it (R218, R220). -/
theorem resume_err {s : State} {e : TErr} (h : nextAnswer s = some (.err e)) :
    resume s = raise (.transport e) (recordWrite (.err e) (useAnswer s)) := settle_err h

/-- Settles O35: a request that is rejected leaves `LOG`; any other has its first frame pending, whose write fails. -/
theorem transportErrorIsForwarded : Obligations.TransportErrorIsForwarded := by
  intro i s t e hi _ ha h hlog
  rcases exec_request_next hi h with ⟨x, rfl⟩ | ⟨op, f, frame, -, -, hexec⟩
  · exact absurd (raise_log x _) hlog
  · have hn : nextAnswer (buildFrame frame (accept op f s)) = some (.err e) := ha
    rw [hexec s rfl rfl, resume_err hn] at h
    cases h
    exact ⟨rfl, rfl, rfl, rfl, ⟨_, rfl⟩, rfl, rfl, rfl⟩

end Sys2Proof.Machine
end


section
/-! PROOFS. The instructions of a payload by themselves (43_controller_pointer R183 to R187, R189, R191 to R194;
log entries 14, 15). -/

namespace Sys2Proof.Machine

/-! ### DATA_BYTE -/

/-- Settles O55: the byte is a DATA payload of length one, which always fits in its row. -/
theorem dataByteLandsAndAdvances : Obligations.DataByteLandsAndAdvances := by
  intro s d
  refine ⟨busEffect (applyData s.params [d]) s, rfl, applyData_mode _ _ _, fun page col h => ?_, fun h => ?_⟩
  · rw [busEffect_shadow]
    refine ⟨fun a => ?_, fun hne => ?_, fun hlast => ?_⟩
    · rw [applyData_ram_of_fits (d := [d]) h col.isLt]
      exact memRead_memWrite _ _ _ _
    · have hlt : col.toNat + 1 < columnCount := by
        have hcol := col.isLt
        have hnat : col.toNat ≠ 127 := fun heq => hne (BitVec.eq_of_toNat_eq heq)
        simp only [columnCount]
        omega
      exact applyData_pointer_inRow h hlt
    · subst hlast
      split
      · rename_i hw
        rw [applyData_wraps (landing_eq_some.mpr h) hw]
        obtain ⟨hpage, -, -⟩ := h
        exact ⟨hpage, by simp [columnCount]⟩
      · rename_i hw
        exact applyData_pointer_rowEnd h hw (Nat.le_refl 128)
  · exact applyData_nowhere (landing_eq_none.mpr h) (List.cons_ne_nil d [])

/-! ### The commands -/

/-- Settles O56: the page-start command has its effect as a bus instruction. -/
theorem pageStartCommandSetsThePage : Obligations.PageStartCommandSetsThePage := fun _ _ => ⟨_, rfl, rfl⟩

/-- Settles O58: the mode is the only field it writes. -/
theorem addrModeCommandSelectsPageMode : Obligations.AddrModeCommandSelectsPageMode := fun _ => ⟨_, rfl, rfl⟩

/-- The low nibble is held while bytes of the frame are left (R187; log entry 15). -/
theorem exec_cmdColLow_of_payload {s : State} (low : BitVec 4) (hb : s.bus ≠ []) :
    exec (.cmdColLow low) s =
      .next { s with shadow := shadowHalfColumn s.shadow, rx := { s.rx with low := some low } } := by
  simp [exec, execCmdColLow, hb]

/-- With a low nibble before it the high one sets the column (R185). -/
theorem exec_cmdColHigh_of_low {s : State} (high : BitVec 3) {low : BitVec 4} (hl : s.rx.low = some low) :
    exec (.cmdColHigh high) s = .next (busEffect (shadowColumn (high ++ low)) s) := by
  simp only [exec, execCmdColHigh, hl]
  rfl

/-- Alone it leaves the column half-set (R187). -/
theorem exec_cmdColHigh_alone {s : State} (high : BitVec 3) (hl : s.rx.low = none) :
    exec (.cmdColHigh high) s = .next (busEffect shadowHalfColumn s) := by
  simp only [exec, execCmdColHigh, hl]

/-- Settles O57: the second nibble finds the first one held. -/
theorem nibblePairSetsTheColumn : Obligations.NibblePairSetsTheColumn := by
  refine ⟨fun s low => ?_, fun s high hl => ⟨_, exec_cmdColHigh_alone high hl, rfl⟩⟩
  by_cases hb : s.bus = []
  · exact ⟨_, rfl, rfl, fun hne => absurd hb hne⟩
  · exact ⟨_, exec_cmdColLow_of_payload low hb, rfl, fun _ high _ => ⟨_, exec_cmdColHigh_of_low high rfl, rfl⟩⟩

/-- Settles O59: each is a command of `INIT_SEQ` or the second entire-on command, which are all silent. -/
theorem panelCommandsWriteNothing : Obligations.PanelCommandsWriteNothing := by
  intro s i hi
  have hmem : i ∈ Instr.cmdEntireOnIgnoreRam :: initCommands := by
    revert i
    decide
  have hsilent : Silent i := by
    rcases List.mem_cons.mp hmem with rfl | hinit
    · exact silent_cmdEntireOnIgnoreRam
    · exact silent_of_mem_initCommands i hinit
  rw [hsilent.2, busDone]
  simp only [List.isEmpty_iff]
  rfl

end Sys2Proof.Machine
end

section
/-! PROOFS. The block between requests and while a write is not answered, the fault of `RANGE_POLICY = fault`, and
the errors of the transport (60_exceptions R213, R216, R222, R230 to R232). -/

namespace Sys2Proof.Machine

/-! ### Waiting (R216, R232) -/

/-- Settles O7: what the port holds is no request yet. -/
theorem idleWithNoRequestChangesNothing : Obligations.IdleWithNoRequestChangesNothing :=
  fun _ _ hr hb hp hd => step_of_no_request hr hb hp hd

/-- Settles O11: the step is the transport's turn, in which it says nothing. -/
theorem busyUntilAnswered : Obligations.BusyUntilAnswered := by
  intro s hr hb hp hn
  rw [step_of_busy hr hb hp, resume, settle_none hn]
  rfl

/-! ### The fault of a range violation (R222) -/

theorem request_outOfRange_faults {op : BitVec 4} {f : Fields} {c : Call} {s : State} (hp : s.phase = .idle)
    (hr : s.params.rangePolicy = .fault) (hf : callFrame s.params c = .error .rangeViolation) :
    request op f [c] s = .fault .rangeViolation := by
  rw [request_error hp hf, reject, if_pos ⟨rfl, hr⟩]

/-- Settles O32: the call has no frame, as in `rangeViolationIsReported`. -/
theorem rangeViolationFaults : Obligations.RangeViolationFaults := fun s _ hp hr =>
  ⟨fun h => request_outOfRange_faults hp hr (callFrame_setPage_outOfRange s.params h),
    fun h => request_outOfRange_faults hp hr (callFrame_setColumn_outOfRange s.params h),
    fun h => request_outOfRange_faults hp hr (callFrame_setMemPageMode_outOfRange s.params h)⟩

/-! ### The conditions that the checks of a call raise (R215) -/

theorem callFrame_error_cases {p : Params} {c : Call} {x : Condition} (h : callFrame p c = .error x) :
    x = .bufferTooSmall ∨ x = .rangeViolation := by
  have hsize : ∀ {ctrl : Byte} {bytes : List Byte}, frameOf ctrl bytes = .error x →
      x = .bufferTooSmall ∨ x = .rangeViolation := fun h => .inl (frameOf_eq_error.mp h).2
  have hrange : (.error .rangeViolation : Except Condition (List Byte)) = .error x →
      x = .bufferTooSmall ∨ x = .rangeViolation := fun h => .inr (Except.error.inj h).symm
  cases c with
  | sendCommands | sendData => exact hsize h
  | setPage | setColumn =>
    simp only [callFrame] at h
    split at h
    · exact hsize h
    · exact hrange h
  | setMemPageMode =>
    simp only [callFrame] at h
    split at h
    · split at h
      · exact hsize h
      · exact hrange h
    · exact hrange h

/-- The checks of a call raise no transport error: it comes only from a write (R213). -/
theorem callFrame_error_ne_transport {p : Params} {c : Call} {x : Condition} (h : callFrame p c = .error x)
    (e : TErr) : x ≠ .transport e := by
  rcases callFrame_error_cases h with rfl | rfl <;> exact nofun

/-! ### Where errors come from (R230, R231) -/

/-- From the first state to the second the parameters stay, `LOG` is only appended to, every error recorded on the
way is one of the transport's, and so is the one left under `TRANSPORT_ERROR`, if it was not there before. -/
structure ErrorsFromTransport (s t : State) : Prop where
  params : t.params = s.params
  log : ∃ more, t.log = s.log ++ more ∧ ∀ r ∈ more, ∀ e, r.answer = .err e → isTerr s.params e = true
  response : t.status = .transportError →
    isTerr s.params t.terr = true ∨ (s.status = .transportError ∧ t.terr = s.terr)

theorem ErrorsFromTransport.refl (s : State) : ErrorsFromTransport s s :=
  ⟨rfl, ⟨[], (List.append_nil _).symm, nofun⟩, fun h => .inr ⟨h, rfl⟩⟩

theorem ErrorsFromTransport.trans {s t u : State} (h : ErrorsFromTransport s t) (h' : ErrorsFromTransport t u) :
    ErrorsFromTransport s u := by
  obtain ⟨hpar, ⟨more, hlog, hmore⟩, hresp⟩ := h
  obtain ⟨hpar', ⟨more', hlog', hmore'⟩, hresp'⟩ := h'
  rw [hpar] at hmore' hresp'
  refine ⟨hpar'.trans hpar, ⟨more ++ more', ?_, fun r hr => ?_⟩, fun hu => ?_⟩
  · rw [hlog', hlog, List.append_assoc]
  · rcases List.mem_append.mp hr with hr | hr
    · exact hmore r hr
    · exact hmore' r hr
  · rcases hresp' hu with hterr | ⟨ht, hterr⟩
    · exact .inl hterr
    · rw [hterr]
      exact hresp ht

/-- A condition that is raised leaves no error but the one it carries. -/
theorem errorsFromTransport_raise {x : Condition} {s : State}
    (hx : ∀ e, x = .transport e → isTerr s.params e = true) : ErrorsFromTransport s (raise x s) := by
  cases x with
  | transport e => exact { ErrorsFromTransport.refl s with response := fun _ => .inl (hx e rfl) }
  | bufferTooSmall | rangeViolation | illegalOp => exact { ErrorsFromTransport.refl s with response := nofun }

/-- A write records the answer it is given and no other. -/
theorem errorsFromTransport_recordWrite {a : Answer} {s : State}
    (ha : ∀ e, a = .err e → isTerr s.params e = true) : ErrorsFromTransport s (recordWrite a s) := by
  refine { ErrorsFromTransport.refl s with log := ⟨_, recordWrite_log a s, fun r hr e he => ha e ?_⟩ }
  rw [List.mem_singleton.mp hr] at he
  exact he

theorem errorsFromTransport_afterOk (s : State) : ErrorsFromTransport s (afterOk s) :=
  { errorsFromTransport_recordWrite (a := .ok) (s := s) nofun with }

/-- The transport's turn gives only errors of the transport's type. -/
theorem errorsFromTransport_settle {g : State → State} (hg : ∀ s, ErrorsFromTransport s (g s)) (s : State) :
    ErrorsFromTransport s (settle g s) := by
  have hturn : ErrorsFromTransport s (useAnswer s) := { ErrorsFromTransport.refl s with }
  rcases settle_cases g s with ⟨-, hs⟩ | ⟨hn, -⟩ | ⟨e, hn, hs⟩
  · rw [hs]
    exact hturn
  · rw [settle_ok_afterOk hn]
    exact (errorsFromTransport_afterOk s).trans (hg _)
  · have he : ∀ e', Answer.err e = .err e' → isTerr s.params e' = true := by
      rintro _ ⟨⟩
      exact nextAnswer_isTerr hn
    rw [hs]
    exact (hturn.trans (errorsFromTransport_recordWrite he)).trans
      (errorsFromTransport_raise fun e' h => he e' (congrArg _ (Condition.transport.inj h)))

theorem errorsFromTransport_runCalls (cs : List Call) (s : State) : ErrorsFromTransport s (runCalls cs s) := by
  induction cs generalizing s with
  | nil => exact { ErrorsFromTransport.refl s with response := nofun }
  | cons c cs ih =>
    cases hf : callFrame s.params c with
    | error x =>
      rw [runCalls_cons_error hf]
      exact errorsFromTransport_raise fun e he => absurd he (callFrame_error_ne_transport hf e)
    | ok frame =>
      rw [runCalls_cons_ok hf]
      exact { errorsFromTransport_settle ih (buildFrame frame s) with }

/-- A request is rejected by its checks, which raise no transport error, or it runs its calls. -/
theorem errorsFromTransport_exec_request {i : Instr} {s t : State} (hi : isRequest i = true)
    (h : exec i s = .next t) : ErrorsFromTransport s t := by
  have hreject : ∀ x : Condition, (∀ e, x ≠ .transport e) → ErrorsFromTransport s (raise x { s with seq := 0#5 }) :=
    fun x hx => { errorsFromTransport_raise (s := { s with seq := 0#5 }) fun e he => absurd he (hx e) with }
  rcases exec_request_form hi s with hill | ⟨op, f, c, cs, -, hreq, -⟩
  · rw [hill s] at h
    rw [illegalRequest_eq_next h]
    exact hreject .illegalOp nofun
  · rw [hreq s rfl] at h
    obtain ⟨-, ⟨x, hx, rfl⟩ | ⟨frame, -, rfl⟩⟩ := request_cases h
    · exact hreject x (callFrame_error_ne_transport hx)
    · exact { errorsFromTransport_settle (errorsFromTransport_runCalls cs) (buildFrame frame (accept op f s)) with }

/-- Short of a construction every error of a step comes from the transport's turn. -/
theorem errorsFromTransport_step {s t : State} (hr : s.resetIn = none) (h : step s = .next t) :
    ErrorsFromTransport s t := by
  rcases step_next_cases h with ⟨sel, hsel, -⟩ | ⟨-, hcases⟩
  · rw [hr] at hsel; cases hsel
  rcases hcases with ⟨-, -, rfl⟩ | ⟨-, -, -, rfl⟩ | ⟨-, -, i, rest, hd, hexec⟩ | ⟨-, i, rest, hd, hexec⟩ | ⟨-, -, rfl⟩
  · exact errorsFromTransport_settle (errorsFromTransport_runCalls _) s
  · exact .refl _
  · exact { errorsFromTransport_exec_request (decide_eq_true (decodeRequest_wellFormed hd).1) hexec with }
  · obtain ⟨_, _, _, rfl⟩ := exec_bus_eq (isRequest_of_decodeWith_busFormat hd) hexec
    exact { ErrorsFromTransport.refl s with }
  · exact { ErrorsFromTransport.refl s with }

/-- No label is below 0: the empty `TERR` has no error value (R231). -/
theorem isTerr_eq_false_of_empty {p : Params} (h : p.terrCount = some 0) (e : TErr) : isTerr p e = false := by
  simp [isTerr, h]

/-- Settles O36, by the cases of a step. -/
theorem everyErrorIsOneOfTheTransports : Obligations.EveryErrorIsOneOfTheTransports := by
  intro s t hr h
  obtain ⟨-, hlog, hresp⟩ := errorsFromTransport_step hr h
  exact ⟨hlog, hresp, isTerr_eq_false_of_empty⟩

end Sys2Proof.Machine
end


section
/-! PROOFS. The invariant after construction, and a construction that is asked for (70_reset_and_hazards R250 to
R253). -/

namespace Sys2Proof.Machine

/-! ### The state after construction -/

/-- The latches hold 0, which fits every width (log entry 8). -/
theorem latchesOk_resetWith (p : Params) (sel : AddrSel) : latchesOk (State.resetWith p sel) :=
  ⟨Nat.two_pow_pos _, Nat.two_pow_pos _, Nat.two_pow_pos _⟩

/-- Settles O2: the log is empty and the block `IDLE`, so what the invariant says of records and of a `BUSY` block is
vacuous, and the RAM is that of `CTRL_RESET_STATE`. -/
theorem resetMeetsInvariant : Obligations.ResetMeetsInvariant := by
  intro p sel hram
  have hlog : logOk (State.resetWith p sel) := nofun
  have hbusy : busyOk (State.resetWith p sel) := nofun
  have hseq : seqOk (State.resetWith p sel) := Nat.zero_le 26
  have hpay : payloadOk (State.resetWith p sel) := rfl
  exact ⟨hlog, hram, hbusy, hseq, hpay, latchesOk_resetWith p sel⟩

/-! ### A construction that is asked for, by the phase of the block -/

theorem constructStep_of_idle {s : State} (hp : s.phase = .idle) (sel : AddrSel) :
    constructStep sel s = .next (construct sel s) := by
  simp only [constructStep, hp]

theorem constructStep_of_busy {s : State} (hp : s.phase = .busy) (sel : AddrSel) :
    constructStep sel s = .refused .resetWhileBusy := by
  simp only [constructStep, hp]

/-- Settles O3: a construction that is asked for is what the step does, by the phase of the block. -/
theorem constructionOnlyWhileIdle : Obligations.ConstructionOnlyWhileIdle := by
  intro s sel hsel
  rw [step_of_construct hsel]
  exact ⟨fun hidle => constructStep_of_idle hidle sel, fun hbusy => constructStep_of_busy hbusy sel⟩

end Sys2Proof.Machine
end
